-- ==== Sys2Proof/Word.lean ====
section
/-!
DEFINITION. The number types of the Fovima S4-128: bytes, versions, tokens, sequences (00_scope.md, Conventions) and
the index types of ports, records, windows, areas and pages.
-/

namespace Sys2Proof

/-- A byte as it crosses a link. -/
abbrev Byte := BitVec 8

/-- A record version: 0 stands for a record that was never written (R4). -/
abbrev Version := BitVec 16

/-- A commit token, 0 to 255 (R47). -/
abbrev Token := BitVec 8

/-- A transaction sequence (R33); 0xFFFFFFFF is never issued (R35). -/
abbrev Sequence := BitVec 32

/-- The ports P0 to P3. -/
abbrev Port := Fin 4

/-- The records that hosts see, 0 to 127 (R1). -/
abbrev HostRecord := Fin 128

/-- All records, 0 to 128; 128 is the layout record (R1). -/
abbrev RecordNo := Fin 129

/-- Window numbers, 0 to 15 (R101). -/
abbrev WindowNo := Fin 16

/-- Area numbers: 0 to 15 are the windows, 16 is the outer area (R101). -/
abbrev AreaNo := Fin 17

/-- Page numbers, 0 to 319 (R19). -/
abbrev PageNo := Fin 320

end Sys2Proof
end

