-- ==== Sys2Proof/Syntax.lean ====
section
/-!
DEFINITION. The commands of the part: one constructor for each row of spec/opcode_table.json, with the row's operands.
A request's operands are the port and the argument bytes of its good frame (Table 39). A link event's operands are the
port and the lines' levels as the host drives them in the frame, or the acknowledges it gives. An engine event's operands
are what the array's cells did.
-/

namespace Sys2Proof

/-- The level of a port's clock line LCKn, and what its host does to the data line LDAn: true, it releases the line; false,
it pulls it low (R141). -/
structure LinkLevels where
  clock : Bool
  data : Bool
  deriving DecidableEq, Repr

/-- What a host does in a response frame (R150 to R153). The acknowledge of the check byte of a scan block or a notice
slot is not among these: it is the command SCAN_BLOCK_DELIVERED or NOTICE_ENTRY_DELIVERED. -/
inductive ResponseAct where
  /-- A start (or repeated start) and the lead byte; then the host acknowledges `acks` bytes in turn. -/
  | opens (acks : Nat)
  /-- In the open frame the host acknowledges `acks` further bytes. -/
  | goesOn (acks : Nat)
  /-- The host does not acknowledge the byte being sent (R151). -/
  | notAck
  /-- A stop ends the frame (R151). -/
  | stop
  /-- A repeated start ends the frame and opens a new one (R151). -/
  | repeatedStart
  deriving DecidableEq, Repr

/-- What the unverified retirement mark left on a page (R27, R28). -/
inductive MarkOutcome where
  | took
  | leftBlank
  | leftDamaged
  deriving DecidableEq, Repr

/-- The verdict of a page program's verify (R26, R27). -/
inductive ProgramVerdict where
  | pass
  | fail (mark : MarkOutcome)
  deriving DecidableEq, Repr

/-- The verdict of a page erase's verify (R28). -/
inductive EraseVerdict where
  | erased
  | failed (mark : MarkOutcome)
  deriving DecidableEq, Repr

/-- What a page operation cut off by a device reset leaves on its page (R84). -/
inductive CutOff where
  /-- The page reads BLANK. -/
  | blank
  /-- The page reads DAMAGED. -/
  | damaged
  /-- For a program: the image's fields were written, and this stood in the place of its page check; the read finds whether
  it agrees (R21). For an erase: the page reads DAMAGED. -/
  | disturbed (check : BitVec 16)
  /-- For a program: the image had been written fully. For an erase: the page holds what it held before. -/
  | image
  /-- The retirement mark of a failed operation had been written. -/
  | retired
  deriving DecidableEq, Repr

/-- The commands. -/
inductive Instr where
  | status (p : Port)
  | read (p : Port) (record : Byte)
  | scan (p : Port) (start scope direction : Byte)
  | windows (p : Port)
  | beginTxn (p : Port)
  | stageWrite (p : Port) (record presence : Byte) (expected : Version) (data : List Byte)
  | stageDelete (p : Port) (record presence : Byte) (expected : Version)
  | dropEntry (p : Port) (record : Byte)
  | commit (p : Port)
  | abort (p : Port)
  | lease (p : Port) (window wait : Byte)
  | renew (p : Port) (window : Byte)
  | release (p : Port) (window : Byte)
  | breakLease (p : Port) (window : Byte)
  | watch (p : Port) (area : Byte)
  | unwatch (p : Port) (area : Byte)
  | defineWindow (p : Port) (window base size policy leaseTime : Byte)
  | clearWindow (p : Port) (window : Byte)
  | format (p : Port)
  | portReset (p : Port)
  | badFrame (p : Port) (wave : List LinkLevels)
  | truncated (p : Port) (wave : List LinkLevels)
  | frameTimeout (p : Port) (wave : List LinkLevels)
  | badLeadByte (p : Port) (lead : Byte)
  | resultFrame (p : Port) (act : ResponseAct)
  | scanBlockDelivered (p : Port) (goesOn : Bool)
  | noticeFrame (p : Port) (act : ResponseAct)
  | noticeEntryDelivered (p : Port) (goesOn : Bool)
  | deviceReset (cut : CutOff)
  | resetRelease (svcen svcsel1 svcsel0 : Bool)
  | mountEnd
  | pfwAssert
  | holdTakesEffect
  | pfwDeassert
  | leaseTick
  | leaseExpiry (w : WindowNo)
  | jobChoice (pfwTogether : Bool)
  | pageProgramVerdict (verdict : ProgramVerdict)
  | pageEraseVerdict (verdict : EraseVerdict)
  | formatJobBegin (pfwTogether : Bool)
  deriving DecidableEq, Repr

end Sys2Proof
end

