-- ==== Sys2Proof/Machine/Table.lean ====
section
/-!
DEFINITION. A table of exactly `n` rows, indexed by `Fin n`: the shape of the Record Table, the Page Directory, the
Page Array, the Window Table, the lease states, the watch sets and the four ports. It is plain data.
-/

namespace Sys2Proof.Machine

/-- `n` rows of one kind. -/
structure Table (α : Type) (n : Nat) where
  rows : List α
  size : rows.length = n
  deriving DecidableEq, Repr

/-- Row `i`. -/
def Table.get {α : Type} {n : Nat} (t : Table α n) (i : Fin n) : α :=
  t.rows.get (i.cast t.size.symm)

/-- The table with row `i` replaced. -/
def Table.set {α : Type} {n : Nat} (t : Table α n) (i : Fin n) (a : α) : Table α n :=
  ⟨t.rows.set i.val a, by rw [List.length_set]; exact t.size⟩

/-- The table whose every row is `a`. -/
def Table.fill {α : Type} (n : Nat) (a : α) : Table α n :=
  ⟨List.replicate n a, List.length_replicate⟩

/-- The table whose row `i` is `f i`. -/
def Table.build {α : Type} (n : Nat) (f : Fin n → α) : Table α n :=
  ⟨(List.finRange n).map f, by rw [List.length_map, List.length_finRange]⟩

/-- Every row changed by `f`. -/
def Table.map {α β : Type} {n : Nat} (f : α → β) (t : Table α n) : Table β n :=
  ⟨t.rows.map f, by rw [List.length_map]; exact t.size⟩

/-- The number of rows that satisfy `p`. -/
def Table.count {α : Type} {n : Nat} (t : Table α n) (p : α → Bool) : Nat :=
  t.rows.countP p

end Sys2Proof.Machine
end

