-- ==== Sys2Proof/Machine/Images.lean ====
section
/-!
DEFINITION. What a page image carries (R20, Table 7) but for its page check: header fields and data. The layout record's
data is its list of window definitions (R7, R101).
-/

namespace Sys2Proof.Machine

/-- The write rule of a window (R101). The lease time, in ticks, is present only when the policy is LEASED. -/
inductive Policy where
  | openWrite
  | leased (ticks : Nat)
  | frozen
  deriving DecidableEq, Repr

/-- A window definition but for its number, which is the row of the Window Table (R101). -/
structure WindowDef where
  base : Nat
  size : Nat
  policy : Policy
  deriving DecidableEq, Repr

/-- A list of window definitions in order of window number: the content of the layout record (R7) and of the Window
Table (R102). -/
abbrev Layout := Table (Option WindowDef) 16

/-- The kinds of page image (R20); a retirement mark is no image here but a page content of its own. -/
inductive PageKind where
  | data
  | tombstone
  | layout
  | epoch
  deriving DecidableEq, Repr

/-- The header fields of a page image (R20, R22). -/
structure Header where
  kind : PageKind
  record : Option RecordNo
  version : Option Version
  sequence : Sequence
  position : Nat
  count : Nat
  relocated : Bool
  deriving DecidableEq, Repr

/-- The data of a page image or of a record: none, bytes, or for the layout record its window list (R3, R7, R20). The
32-byte form of the list is not visible to hosts; the list itself stands for it (log entry 12). -/
inductive Payload where
  | none
  | bytes (data : List Byte)
  | layout (list : Layout)
  deriving DecidableEq, Repr

end Sys2Proof.Machine
end

