-- ==== Sys2Proof/Config.lean ====
section
/-!
DEFINITION. The fixed numbers of the part, each with the rule that gives it, and the one free value: the function of the
page check, which the spec does not state.
-/

namespace Sys2Proof.Config

/-- CLEAN pages kept in reserve beside a commit's own (R54). -/
def spaceReserve : Nat := 8

/-- With an empty queue the engine relocates while fewer pages than this are CLEAN (R71). -/
def relocateBelow : Nat := 24

/-- More BAD pages than this make the store READ_ONLY with reason MEDIA (R32). -/
def badLimit : Nat := 32

/-- Entries of a notice queue (R126). -/
def noticeDepth : Nat := 16

/-- Entries of a staging list (R38). -/
def stageLimit : Nat := 8

/-- Retries of one position of a commit or a relocation (R57, R76). -/
def retryLimit : Nat := 2

/-- Attempts at the epoch page (R166). -/
def epochAttempts : Nat := 3

/-- Bytes of data of a record (R2). -/
def dataLimit : Nat := 32

/-- The frame timeout in milliseconds (R148). -/
def frameTimeoutMs : Nat := 25

/-- The next sequence after a format and on an empty array (R34). -/
def firstSequence : Sequence := 1

/-- The value of the next sequence at which no sequence can be issued (R35). -/
def sequenceEnd : Sequence := 0xFFFFFFFF

/-- The internal number of the layout record (R1). -/
def layoutRecord : RecordNo := 128

/-- The outer area (R101). -/
def outerArea : AreaNo := 16

/-- The page check: a 16-bit integrity check over every other field of a page image (R21). The spec does not give the
function, so it is free: no value of it is known (log entry 11). -/
opaque pageCheck : Machine.Header → Machine.Payload → BitVec 16

end Sys2Proof.Config
end

