-- ==== Sys2Proof/Machine/State.lean ====
section
/-!
DEFINITION. The state of the part as plain data, the fault and refusal reasons, and the state after reset. Each type
cites the rule of spec/ that gives it.
-/

namespace Sys2Proof.Machine

/-- READ_ONLY reasons (R159). -/
inductive ReadOnlyReason where
  | media
  | space
  | sequence
  deriving DecidableEq, Repr

/-- The store state, with the reason while it is READ_ONLY (R159). -/
inductive StoreState where
  | mounting
  | ready
  | readOnly (reason : ReadOnlyReason)
  | formatting
  deriving DecidableEq, Repr

/-- Failure reasons of a commit (R49). -/
inductive FailReason where
  | conflict
  | leaseLost
  | policy
  | overlap
  | held
  | notService
  | media
  | readOnly
  | aborted
  deriving DecidableEq, Repr

/-- The outcome code of a last-outcome record (R49). -/
inductive OutcomeCode where
  | none
  | done
  | failed (reason : FailReason)
  deriving DecidableEq, Repr

/-- The last-outcome record (R49). -/
structure LastOutcome where
  token : Option Token
  code : OutcomeCode
  sequence : Option Sequence
  deriving DecidableEq, Repr

/-- The operation of a staged record entry (R38). -/
inductive StagedOp where
  | write (data : List Byte)
  | delete
  deriving DecidableEq, Repr

/-- A record entry of a staging list (R38). -/
structure StagedEntry where
  record : HostRecord
  op : StagedOp
  expected : Option Version
  deriving DecidableEq, Repr

/-- A staging list: record entries alone, or one layout entry alone (R38). -/
inductive Staging where
  | records (entries : List StagedEntry)
  | define (window : WindowNo) (definition : WindowDef)
  | clear (window : WindowNo)
  deriving DecidableEq, Repr

/-- The transaction state of a port (R37). -/
inductive TxnState where
  | none
  | opened
  | queued
  | running
  deriving DecidableEq, Repr

/-- An entry of the Commit Queue (R50). -/
structure QueueEntry where
  port : Port
  token : Token
  staging : Staging
  deriving DecidableEq, Repr

/-- A page image as it is stored: its header fields, its data, and the page check written with them (R20, R21). -/
structure PageImage where
  header : Header
  payload : Payload
  check : BitVec 16
  deriving DecidableEq, Repr

/-- What a page of the array holds (R20, R21): nothing, the retirement mark, an image with its stored check, or anything
else. -/
inductive PageContent where
  | blank
  | retired
  | programmed (image : PageImage)
  | damaged
  deriving DecidableEq, Repr

/-- An entry of the Page Directory (R22, R23). PENDING has header fields once its program has passed verify; LIVE and
RETAINED have them; STALE, CLEAN and BAD have none. -/
inductive PageEntry where
  | clean
  | pending (header : Option Header)
  | live (header : Header)
  | retained (header : Header)
  | stale
  | bad
  deriving DecidableEq, Repr

/-- A page of a Census entry with its state, LIVE or RETAINED (Table 16). -/
structure CensusPage where
  page : PageNo
  live : Bool
  deriving DecidableEq, Repr

/-- A Census entry (R65, Table 16). The count n, the live count and the retained count are read off its pages, which
stand in position order. -/
structure CensusEntry where
  sequence : Sequence
  pages : List CensusPage
  deriving DecidableEq, Repr

/-- A Record Table entry with the record's data in the record image (R2, R3). -/
inductive RecordEntry where
  | unwritten
  | present (version : Version) (data : Payload) (page : PageNo) (sequence : Sequence)
  | deleted (version : Version) (page : PageNo) (sequence : Sequence)
  deriving DecidableEq, Repr

/-- The holder of a window's lease, its timer in ticks and the frozen flag (R104). -/
structure HeldLease where
  port : Port
  timer : Nat
  frozen : Bool
  deriving DecidableEq, Repr

/-- The lease state of a window: the holder, if any, and the wait list, the oldest first (R104). -/
structure LeaseState where
  held : Option HeldLease
  waiters : List Port
  deriving DecidableEq, Repr

/-- The reason of a LAYOUT_CHANGED notice (R131). -/
inductive LayoutReason where
  | define
  | clear
  deriving DecidableEq, Repr

/-- A notice's kind with the fields of Table 27 that the kind carries (R125). -/
inductive NoticeBody where
  | changed (area : AreaNo) (record : HostRecord) (count : Nat) (origin : Port) (sequence : Sequence)
  | commitDone (token : Token) (count : Nat) (sequence : Sequence)
  | commitFailed (token : Token) (reason : FailReason) (record : Option HostRecord)
  | leaseGranted (window : WindowNo)
  | leaseExpired (window : WindowNo)
  | leaseRevoked (window : WindowNo)
  | layoutChanged (window : WindowNo) (reason : LayoutReason) (origin : Port) (sequence : Sequence)
  | storeState (state : StoreState)
  deriving DecidableEq, Repr

/-- An entry of a notice queue: the notice and its loss mark (R125, R127). -/
structure Notice where
  body : NoticeBody
  lossMark : Bool
  deriving DecidableEq, Repr

/-- Result status codes (Table 40), but for NO_RESULT, which an empty holder sends, and SCAN, which a scan stream
sends. -/
inductive Status where
  | ok
  | granted
  | waiting
  | queued
  | badFrame
  | unknown
  | badArg
  | noWindow
  | notFound
  | state
  | empty
  | stageFull
  | policy
  | notHolder
  | held
  | notHeld
  | pendingCommit
  | tooLate
  | notService
  | mounting
  | formatting
  | readOnly
  deriving DecidableEq, Repr

/-- The scope of a scan (R13). -/
inductive ScanScope where
  | area
  | all
  deriving DecidableEq, Repr

/-- The direction of a scan (R13). -/
inductive ScanDirection where
  | up
  | down
  deriving DecidableEq, Repr

/-- The end reason of a scan (R16, R17). -/
inductive ScanEnd where
  | lap
  | layout
  deriving DecidableEq, Repr

/-- A scan cursor (Table 4). The range is a list of record numbers in increasing order. -/
structure ScanCursor where
  scope : ScanScope
  direction : ScanDirection
  start : HostRecord
  range : List HostRecord
  next : HostRecord
  remaining : Nat
  endReason : Option ScanEnd
  deriving DecidableEq, Repr

/-- A port's result holder (R149). -/
inductive ResultHolder where
  | empty
  | result (status : Status) (payload : List Byte)
  | scan (cursor : ScanCursor)
  deriving DecidableEq, Repr

/-- The channels of a response frame (R144). -/
inductive Channel where
  | result
  | notice
  deriving DecidableEq, Repr

/-- What a response frame is sending, with the content as it was taken at its first byte (Table 30, R15, R134). -/
inductive Slot where
  /-- The bytes of a RESULT frame on a held result or an empty holder; filler follows them (R150). -/
  | held (content : List Byte)
  /-- The status byte of a scan stream (R152). -/
  | scanStatus
  /-- A record block: the record and how many positions past the cursor's next it was found (R15). -/
  | scanRecord (record : HostRecord) (steps : Nat) (content : List Byte)
  /-- The end block of a scan stream (R16, R17). -/
  | scanEnd (content : List Byte)
  /-- The notice slot that carries the head of the queue (R134). -/
  | notice (content : List Byte)
  /-- The notice slot that carries the end entry (R134). -/
  | noticeEnd (content : List Byte)
  /-- The slot's content has not been taken: the first byte of the next block or slot is not sent yet. -/
  | notTaken
  deriving DecidableEq, Repr

/-- A frame in REQUEST (Table 30): the lead byte once complete, the kept bytes after it, the number of complete bytes
after it, the expected length once known, and the frame timer in milliseconds. -/
structure RequestFrame where
  lead : Option Byte
  bytes : List Byte
  count : Nat
  expected : Option Nat
  timer : Nat
  deriving DecidableEq, Repr

/-- A frame in RESPONSE (Table 30). -/
structure ResponseFrame where
  channel : Channel
  slot : Slot
  position : Nat
  timer : Nat
  deriving DecidableEq, Repr

/-- A port's Frame Controller (R143). -/
inductive Controller where
  | idle
  | request (frame : RequestFrame)
  | response (frame : ResponseFrame)
  deriving DecidableEq, Repr

/-- The model's own record of what the part put on a port's data line in the last frame that had a lead byte: its
acknowledge bits (true: driven low) and the bytes it sent (log entry 15). -/
structure LineRecord where
  acks : List Bool
  sent : List Byte
  deriving DecidableEq, Repr

/-- What the part holds for one port: the Port Context (R37, R149, R138, R163), its notice queue (R126), its Frame
Controller (R143) and the line record. -/
structure PortState where
  txn : TxnState
  staging : Staging
  tokenCounter : Token
  lastOutcome : LastOutcome
  holder : ResultHolder
  watch : Table Bool 17
  service : Bool
  notices : List Notice
  controller : Controller
  line : LineRecord
  deriving DecidableEq, Repr

/-- The progress of a COMMIT or RELOCATE job: its sequence, the images fixed at its start in position order, the pages
verified so far in position order, and the retries made at the position reached (R55, R57, R75, R97). -/
structure ImageRun where
  sequence : Sequence
  images : List PageImage
  verified : List PageNo
  retries : Nat
  deriving DecidableEq, Repr

/-- The step a FORMAT job has reached (R166, R167). -/
inductive FormatStep where
  /-- The first step, after `failures` failed attempts at the epoch page. -/
  | epoch (sequence : Sequence) (failures : Nat)
  /-- The second step: pages below `next` have been passed. -/
  | sweep (next : Nat) (epochPage : Option PageNo)
  /-- The third step: the erase of the epoch page. -/
  | eraseEpoch (epochPage : PageNo)
  deriving DecidableEq, Repr

/-- The outcome of the erase of a LIVE or RETAINED page, noted until the end of the format (R29). -/
structure NotedErase where
  page : PageNo
  erased : Bool
  deriving DecidableEq, Repr

/-- The job that the Array Engine runs or holds suspended (R69, R169). -/
inductive Job where
  | idle
  | mount
  | commit (port : Port) (token : Token) (staging : Staging) (run : ImageRun)
  | relocate (target : Sequence) (run : ImageRun)
  | erase (page : PageNo)
  | format (step : FormatStep) (noted : List NotedErase)
  deriving DecidableEq, Repr

/-- The page operation in progress (R19). -/
inductive PageOp where
  | program (page : PageNo) (image : PageImage)
  | erase (page : PageNo)
  deriving DecidableEq, Repr

/-- The service strap inputs (R163, Table 46). -/
structure Straps where
  svcen : Bool
  svcsel1 : Bool
  svcsel0 : Bool
  deriving DecidableEq, Repr

/-- The state of the part. -/
structure State where
  ports : Table PortState 4
  records : Table RecordEntry 129
  windows : Layout
  leases : Table LeaseState 16
  queue : List QueueEntry
  pages : Table PageEntry 320
  pointer : PageNo
  badCount : Nat
  nextSequence : Sequence
  census : List CensusEntry
  array : Table PageContent 320
  store : StoreState
  recovered : Bool
  hold : Bool
  job : Job
  op : Option PageOp
  inReset : Bool
  pfw : Bool
  straps : Straps
  pending : List Instr
  deriving DecidableEq, Repr

/-- Why the machine stops with a fault. The spec describes no stop of the part: no command raises one. -/
inductive Fault where
  deriving DecidableEq, Repr

/-- Why a command has no meaning. -/
inductive Refusal where
  /-- A command of the table that this model gives no meaning to; raised by a refused arm of `exec`, of which there is
  none. Safe: the model stops where the part goes on. -/
  | notModelled (mnemonic : String)
  deriving DecidableEq, Repr

/-- The last outcome after a device reset (R37). -/
def LastOutcome.reset : LastOutcome := ⟨none, .none, none⟩

/-- A free window with nobody waiting (R104). -/
def LeaseState.free : LeaseState := ⟨none, []⟩

/-- Nothing acknowledged and nothing sent. -/
def LineRecord.reset : LineRecord := ⟨[], []⟩

/-- A port after a device reset, with its service flag (Table 19, R163). -/
def PortState.reset (service : Bool) : PortState where
  txn := .none
  staging := .records []
  tokenCounter := 0
  lastOutcome := .reset
  holder := .empty
  watch := .fill 17 false
  service := service
  notices := []
  controller := .idle
  line := .reset

/-- The machine right after reset: released from device reset, the mount under way (Table 19, R83). The array of a new
part is blank (log entry 4), the straps and PFW are low and deasserted (log entry 5), and no command waits. -/
def State.reset : State where
  ports := .fill 4 (.reset false)
  records := .fill 129 .unwritten
  windows := .fill 16 none
  leases := .fill 16 .free
  queue := []
  pages := .fill 320 .stale
  pointer := 0
  badCount := 0
  nextSequence := Config.firstSequence
  census := []
  array := .fill 320 .blank
  store := .mounting
  recovered := false
  hold := false
  job := .mount
  op := none
  inReset := false
  pfw := false
  straps := ⟨false, false, false⟩
  pending := []

end Sys2Proof.Machine
end

