-- ==== Sys2Proof/Machine/Codes.lean ====
section
/-!
DEFINITION. The codes of Tables 40 and 42, the byte order of multi-byte quantities, and the check byte (R172 to R175).
-/

namespace Sys2Proof.Machine

/-- A two-byte quantity, most significant byte first (00_scope.md, Conventions). -/
def be16 (v : BitVec 16) : List Byte := [v.extractLsb' 8 8, v.extractLsb' 0 8]

/-- A four-byte quantity, most significant byte first. -/
def be32 (v : BitVec 32) : List Byte :=
  [v.extractLsb' 24 8, v.extractLsb' 16 8, v.extractLsb' 8 8, v.extractLsb' 0 8]

/-- A number as one byte. -/
def byteOf (n : Nat) : Byte := BitVec.ofNat 8 n

/-- A number as two bytes. -/
def be16Of (n : Nat) : List Byte := be16 (BitVec.ofNat 16 n)

/-- One step of the check register (R175). -/
def crcStep (r : Byte) : Byte := if r.msb then (r <<< 1) ^^^ 0x2F else r <<< 1

/-- The check register after one covered byte (R175). -/
def crcByte (r b : Byte) : Byte :=
  crcStep (crcStep (crcStep (crcStep (crcStep (crcStep (crcStep (crcStep (r ^^^ b))))))))

/-- The check byte over the covered bytes (R175). -/
def checkByte (covered : List Byte) : Byte := covered.foldl crcByte 0xFF

/-- Table 40. -/
def Status.code : Status → Byte
  | .ok => 0x00
  | .granted => 0x01
  | .waiting => 0x02
  | .queued => 0x03
  | .badFrame => 0x10
  | .unknown => 0x11
  | .badArg => 0x12
  | .noWindow => 0x13
  | .notFound => 0x14
  | .state => 0x15
  | .empty => 0x16
  | .stageFull => 0x17
  | .policy => 0x18
  | .notHolder => 0x19
  | .held => 0x1A
  | .notHeld => 0x1B
  | .pendingCommit => 0x1C
  | .tooLate => 0x1D
  | .notService => 0x1E
  | .mounting => 0x20
  | .formatting => 0x21
  | .readOnly => 0x22

/-- The status byte of a scan stream (Table 40). -/
def scanStatusCode : Byte := 0x04

/-- The status byte of an empty holder (Table 40). -/
def noResultCode : Byte := 0x05

/-- BAD_FRAME sub-reasons (Table 42). -/
def subReasonLength : Byte := 0x01
def subReasonCheck : Byte := 0x02
def subReasonTruncated : Byte := 0x03

/-- The policy code of a window (Table 42). -/
def Policy.code : Policy → Byte
  | .openWrite => 0x00
  | .leased _ => 0x01
  | .frozen => 0x02

/-- The lease time of a window as WINDOWS reports it: 0 for OPEN and FROZEN (R124). -/
def Policy.ticks : Policy → Nat
  | .openWrite => 0
  | .leased t => t
  | .frozen => 0

/-- The end reason of a scan (Table 42). -/
def ScanEnd.code : ScanEnd → Byte
  | .lap => 0x01
  | .layout => 0x02

/-- The store state (Table 42). -/
def StoreState.code : StoreState → Byte
  | .mounting => 0x00
  | .ready => 0x01
  | .readOnly _ => 0x02
  | .formatting => 0x03

/-- The READ_ONLY reason (Table 42). -/
def ReadOnlyReason.code : ReadOnlyReason → Byte
  | .media => 0x01
  | .space => 0x02
  | .sequence => 0x03

/-- The READ_ONLY reason of a store state: 0xFF when absent (Table 42). -/
def StoreState.reasonCode : StoreState → Byte
  | .readOnly r => r.code
  | .mounting => 0xFF
  | .ready => 0xFF
  | .formatting => 0xFF

/-- The engine activity, which names the job run or held suspended (R169, Table 42). -/
def Job.code : Job → Byte
  | .idle => 0x00
  | .mount => 0x01
  | .commit _ _ _ _ => 0x02
  | .relocate _ _ => 0x03
  | .erase _ => 0x04
  | .format _ _ => 0x05

/-- The transaction state (Table 42). -/
def TxnState.code : TxnState → Byte
  | .none => 0x00
  | .opened => 0x01
  | .queued => 0x02
  | .running => 0x03

/-- The failure reason (Table 42). -/
def FailReason.code : FailReason → Byte
  | .conflict => 0x02
  | .leaseLost => 0x03
  | .policy => 0x04
  | .overlap => 0x05
  | .held => 0x06
  | .notService => 0x07
  | .media => 0x08
  | .readOnly => 0x09
  | .aborted => 0x0A

/-- The outcome code (Table 42). -/
def OutcomeCode.code : OutcomeCode → Byte
  | .none => 0x00
  | .done => 0x01
  | .failed r => r.code

/-- The layout reason of a LAYOUT_CHANGED notice (Table 42). -/
def LayoutReason.code : LayoutReason → Byte
  | .define => 0x01
  | .clear => 0x02

/-- The last outcome as STATUS sends it: the code, the token (0x00 and the token, or 0xFF 0xFF), the sequence
(0xFFFFFFFF when absent) (R173). -/
def LastOutcome.bytes (o : LastOutcome) : List Byte :=
  o.code.code
    :: ((match o.token with
        | some t => [0x00, t]
        | none => [0xFF, 0xFF])
      ++ be32 (o.sequence.getD 0xFFFFFFFF))

/-- A byte that stands for a Boolean (Table 42: loss mark). -/
def boolByte (b : Bool) : Byte := if b then 0x01 else 0x00

/-- The bytes 1 to 11 of a notice slot, the absent fields at 0xFF (Table 27, Table 45, R174). -/
def NoticeBody.bytes : NoticeBody → List Byte
  | .changed a r c o s =>
    [0x01, byteOf a.val, byteOf r.val, byteOf c, byteOf o.val, 0xFF, 0xFF] ++ be32 s
  | .commitDone t c s => [0x02, 0xFF, 0xFF, byteOf c, 0xFF, t, 0xFF] ++ be32 s
  | .commitFailed t f r =>
    [0x03, 0xFF, (r.map fun x => byteOf x.val).getD 0xFF, 0xFF, 0xFF, t, f.code] ++ be32 0xFFFFFFFF
  | .leaseGranted w => [0x04, byteOf w.val, 0xFF, 0xFF, 0xFF, 0xFF, 0xFF] ++ be32 0xFFFFFFFF
  | .leaseExpired w => [0x05, byteOf w.val, 0xFF, 0xFF, 0xFF, 0xFF, 0xFF] ++ be32 0xFFFFFFFF
  | .leaseRevoked w => [0x06, byteOf w.val, 0xFF, 0xFF, 0xFF, 0xFF, 0xFF] ++ be32 0xFFFFFFFF
  | .layoutChanged w l o s =>
    [0x07, byteOf w.val, 0xFF, 0xFF, byteOf o.val, 0xFF, l.code] ++ be32 s
  | .storeState st =>
    [0x08, 0xFF, 0xFF, 0xFF, 0xFF, 0xFF, st.reasonCode, 0x00, 0x00, 0x00, st.code]

/-- Bytes closed by their check byte. -/
def withCheck (covered : List Byte) : List Byte := covered ++ [checkByte covered]

/-- A notice slot of thirteen bytes (Table 45). -/
def Notice.slot (n : Notice) : List Byte := withCheck (n.body.bytes ++ [boolByte n.lossMark])

/-- The end entry as a slot (R174). -/
def endEntrySlot : List Byte :=
  withCheck ([0x00, 0xFF, 0xFF, 0xFF, 0xFF, 0xFF, 0xFF] ++ be32 0xFFFFFFFF ++ [0x00])

/-- The end block of a scan stream (Table 44). -/
def endBlock (reason : ScanEnd) : List Byte := withCheck [0xFF, reason.code, 0x00, 0x00, 0x00]

/-- The bytes of a RESULT frame on a held result: status, length, payload and the check byte over the lead byte 0x80 and
these (R150, R172). -/
def resultBytes (code : Byte) (payload : List Byte) : List Byte :=
  let body := code :: byteOf payload.length :: payload
  body ++ [checkByte (0x80 :: body)]

end Sys2Proof.Machine
end

