-- ==== Sys2Proof/Machine/Frames.lean ====
section
/-!
DEFINITION. Request frames: bytes from the bits of the link (R142), the bytes a Frame Controller acknowledges and keeps
(R145), the judging of a frame (R146) and the byte form of every request (R171, Table 39).
-/

namespace Sys2Proof.Machine

/-- Eight bits, the most significant first, as a byte (R142). -/
def byteOfBits (b7 b6 b5 b4 b3 b2 b1 b0 : Bool) : Byte :=
  BitVec.ofNat 8 (b7.toNat * 128 + b6.toNat * 64 + b5.toNat * 32 + b4.toNat * 16 + b3.toNat * 8 + b2.toNat * 4
    + b1.toNat * 2 + b0.toNat)

/-- The complete bytes among the bits taken at the rising edges of the link clock, each with the level of its ninth bit,
the acknowledge, if that was taken (true: high, a not-acknowledge). A byte is complete at its eighth bit; bits of an
incomplete byte are discarded (R142). -/
def ninths : List Bool → List (Byte × Option Bool)
  | b7 :: b6 :: b5 :: b4 :: b3 :: b2 :: b1 :: b0 :: ack :: rest =>
    (byteOfBits b7 b6 b5 b4 b3 b2 b1 b0, some ack) :: ninths rest
  | [b7, b6, b5, b4, b3, b2, b1, b0] => [(byteOfBits b7 b6 b5 b4 b3 b2 b1 b0, none)]
  | _ => []

/-- The complete bytes among the bits (R142). -/
def completeBytes (bits : List Bool) : List Byte := (ninths bits).map Prod.fst

/-- The bits of one byte, most significant first, and the acknowledge slot, in which the host leaves the line high
(R142). -/
def bitsOfByte (b : Byte) : List Bool :=
  [b.getLsbD 7, b.getLsbD 6, b.getLsbD 5, b.getLsbD 4, b.getLsbD 3, b.getLsbD 2, b.getLsbD 1, b.getLsbD 0, true]

/-- The bits of a run of bytes as a host sends them. -/
def bitsOfBytes (bytes : List Byte) : List Bool := bytes.flatMap bitsOfByte

/-- What a request code gives the Frame Controller: no request, a fixed expected length, or the length that the length
argument of STAGE_WRITE sets (R145, Table 39). -/
inductive CodeLength where
  | unknown
  | fixed (length : Nat)
  | byArgument
  deriving DecidableEq, Repr

/-- Table 39: the expected length of each request code, lead byte and check byte included. -/
def codeLength (lead : Byte) : CodeLength :=
  match lead.toNat with
  | 0x01 => .fixed 2
  | 0x02 => .fixed 3
  | 0x03 => .fixed 5
  | 0x04 => .fixed 2
  | 0x10 => .fixed 2
  | 0x11 => .byArgument
  | 0x12 => .fixed 6
  | 0x13 => .fixed 3
  | 0x14 => .fixed 2
  | 0x15 => .fixed 2
  | 0x20 => .fixed 4
  | 0x21 => .fixed 3
  | 0x22 => .fixed 3
  | 0x23 => .fixed 3
  | 0x28 => .fixed 3
  | 0x29 => .fixed 3
  | 0x30 => .fixed 7
  | 0x31 => .fixed 3
  | 0x38 => .fixed 2
  | 0x3F => .fixed 2
  | _ => .unknown

/-- A frame in REQUEST with no lead byte (R144). -/
def RequestFrame.start : RequestFrame := ⟨none, [], 0, none, 0⟩

/-- A frame in REQUEST whose lead byte is complete and marks a request (R144, R145). -/
def RequestFrame.withLead (lead : Byte) : RequestFrame :=
  ⟨some lead, [], 0, (match codeLength lead with
    | .fixed n => some n
    | .unknown => none
    | .byArgument => none), 0⟩

/-- One complete byte after the lead byte, and whether the part acknowledges it (R145). An unknown code's bytes are all
acknowledged and none kept. A known request's bytes are acknowledged and kept up to the expected length; the length
argument of STAGE_WRITE, the fifth byte after the lead byte, sets the expected length. -/
def RequestFrame.take (f : RequestFrame) (lead b : Byte) : RequestFrame × Bool :=
  let counted := { f with count := f.count + 1, timer := 0 }
  match codeLength lead with
  | .unknown => (counted, true)
  | .fixed n => if f.count + 2 ≤ n then ({ counted with bytes := f.bytes ++ [b] }, true) else (counted, false)
  | .byArgument =>
    match f.expected with
    | some n => if f.count + 2 ≤ n then ({ counted with bytes := f.bytes ++ [b] }, true) else (counted, false)
    | none =>
      ({ counted with bytes := f.bytes ++ [b], expected := if f.count + 1 = 5 then some (7 + b.toNat) else none }, true)

/-- The judgement of a request frame at its stop (R146). -/
inductive FrameVerdict where
  | noRequest
  | unknown
  | badLength
  | badCheck
  | good (lead : Byte) (arguments : List Byte)
  deriving DecidableEq, Repr

/-- The judging of R146, in its order. A frame without a complete lead byte is no request frame (R144). -/
def RequestFrame.judge (f : RequestFrame) : FrameVerdict :=
  match f.lead with
  | none => .noRequest
  | some lead =>
    match codeLength lead with
    | .unknown => .unknown
    | .fixed _ | .byArgument =>
      if f.expected = some (1 + f.count) then
        if f.bytes.getLast? = some (checkByte (lead :: f.bytes.dropLast)) then .good lead f.bytes.dropLast
        else .badCheck
      else .badLength

/-- The request frame that a run of bytes forms, with the acknowledges of the bytes: the lead byte and every byte after
it. -/
def RequestFrame.takeAll (f : RequestFrame) (lead : Byte) : List Byte → RequestFrame × List Bool
  | [] => (f, [])
  | b :: rest =>
    let r := f.take lead b
    let q := RequestFrame.takeAll r.1 lead rest
    (q.1, r.2 :: q.2)

/-- The verdict on a whole request frame, lead byte first. -/
def judgeBytes : List Byte → FrameVerdict
  | [] => .noRequest
  | lead :: rest => ((RequestFrame.withLead lead).takeAll lead rest).1.judge

/-- The request that a good frame's lead byte and arguments name at port `p` (Table 39). -/
def requestOf (p : Port) (lead : Byte) (arguments : List Byte) : Option Instr :=
  match lead.toNat, arguments with
  | 0x01, [] => some (.status p)
  | 0x02, [r] => some (.read p r)
  | 0x03, [a, b, c] => some (.scan p a b c)
  | 0x04, [] => some (.windows p)
  | 0x10, [] => some (.beginTxn p)
  | 0x11, r :: e :: v1 :: v0 :: _length :: data => some (.stageWrite p r e (v1 ++ v0) data)
  | 0x12, [r, e, v1, v0] => some (.stageDelete p r e (v1 ++ v0))
  | 0x13, [r] => some (.dropEntry p r)
  | 0x14, [] => some (.commit p)
  | 0x15, [] => some (.abort p)
  | 0x20, [w, c] => some (.lease p w c)
  | 0x21, [w] => some (.renew p w)
  | 0x22, [w] => some (.release p w)
  | 0x23, [w] => some (.breakLease p w)
  | 0x28, [a] => some (.watch p a)
  | 0x29, [a] => some (.unwatch p a)
  | 0x30, [w, b, s, c, t] => some (.defineWindow p w b s c t)
  | 0x31, [w] => some (.clearWindow p w)
  | 0x38, [] => some (.format p)
  | 0x3F, [] => some (.portReset p)
  | _, _ => none

/-- The lead byte and arguments of a request (Table 39), with its port; none for a command that is no request. -/
def argumentsOf : Instr → Option (Port × List Byte)
  | .status p => some (p, [0x01])
  | .read p r => some (p, [0x02, r])
  | .scan p a b c => some (p, [0x03, a, b, c])
  | .windows p => some (p, [0x04])
  | .beginTxn p => some (p, [0x10])
  | .stageWrite p r e v data => some (p, [0x11, r, e] ++ be16 v ++ byteOf data.length :: data)
  | .stageDelete p r e v => some (p, [0x12, r, e] ++ be16 v)
  | .dropEntry p r => some (p, [0x13, r])
  | .commit p => some (p, [0x14])
  | .abort p => some (p, [0x15])
  | .lease p w c => some (p, [0x20, w, c])
  | .renew p w => some (p, [0x21, w])
  | .release p w => some (p, [0x22, w])
  | .breakLease p w => some (p, [0x23, w])
  | .watch p a => some (p, [0x28, a])
  | .unwatch p a => some (p, [0x29, a])
  | .defineWindow p w b s c t => some (p, [0x30, w, b, s, c, t])
  | .clearWindow p w => some (p, [0x31, w])
  | .format p => some (p, [0x38])
  | .portReset p => some (p, [0x3F])
  | .badFrame _ _ | .truncated _ _ | .frameTimeout _ _ | .badLeadByte _ _ | .resultFrame _ _
  | .scanBlockDelivered _ _ | .noticeFrame _ _ | .noticeEntryDelivered _ _ | .deviceReset _
  | .resetRelease _ _ _ | .mountEnd | .pfwAssert | .holdTakesEffect | .pfwDeassert | .leaseTick | .leaseExpiry _
  | .jobChoice _ | .pageProgramVerdict _ | .pageEraseVerdict _ | .formatJobBegin _ => none

/-- The whole good frame of a request: lead byte, arguments and check byte (R171, R175). -/
def frameOf (i : Instr) : Option (Port × List Byte) := (argumentsOf i).map fun x => (x.1, withCheck x.2)

/-- A lead byte that the part does not acknowledge: bit 7 set and any of bits 6 to 1 set (R144). -/
def badLead (b : Byte) : Bool := b.msb && (b &&& 0x7E != 0)

end Sys2Proof.Machine
end

