-- ==== Sys2Proof/Machine/Ops.lean ====
section
/-!
DEFINITION. The shared operations over ports, notices, windows, leases and the Commit Queue. Each cites the rule it
follows. Operations on pages and jobs stand in PageOps.lean and JobOps.lean.
-/

namespace Sys2Proof.Machine

/-! ## Ports -/

/-- What the part holds for port `p`. -/
def State.port (s : State) (p : Port) : PortState := s.ports.get p

/-- The state with what it holds for port `p` changed by `f`. -/
def State.onPort (s : State) (p : Port) (f : PortState → PortState) : State :=
  { s with ports := s.ports.set p (f (s.ports.get p)) }

/-- The state with every port changed by `f`. -/
def State.onPorts (s : State) (f : PortState → PortState) : State := { s with ports := s.ports.map f }

/-- The ports in order. -/
def allPorts : List Port := List.finRange 4

/-- The window numbers in order. -/
def allWindows : List WindowNo := List.finRange 16

/-- The areas in order. -/
def allAreas : List AreaNo := List.finRange 17

/-- The host-visible records in order. -/
def hostRecords : List HostRecord := List.finRange 128

/-- The page numbers in order. -/
def allPages : List PageNo := List.finRange 320

/-- The Record Table number of a host-visible record. -/
def tableNo (r : HostRecord) : RecordNo := r.castSucc

/-- NOTIFYn is asserted exactly when port n's queue is not empty (R136). -/
def State.notifyAsserted (s : State) (p : Port) : Bool := !(s.port p).notices.isEmpty

/-! ## Results -/

/-- The end of a good request frame of `length` bytes at port `p`: every byte was acknowledged and the Frame Controller
is IDLE (R145, R146). -/
def PortState.endGoodFrame (length : Nat) (c : PortState) : PortState :=
  { c with controller := .idle, line := ⟨List.replicate length true, []⟩ }

/-- Executes a request at the stop of its good frame of `length` bytes (R146): `body` gives the effect and the result,
which replaces the port's result holder, and a scan's cursor with it (R149, R18). In device reset the part takes part
in no transfer (R82). -/
def serve (p : Port) (length : Nat) (body : State → State × ResultHolder) (s : State) :
    Host.Outcome State Fault Refusal :=
  if s.inReset then .next s
  else
    let r := body (s.onPort p (PortState.endGoodFrame length))
    .next (r.1.onPort p fun c => { c with holder := r.2 })

/-- A result with no payload. -/
def plain (status : Status) : ResultHolder := .result status []

/-- The store-state check of a request that is served in READY and READ_ONLY (Table 35): the refusal, if any. -/
def StoreState.readGate : StoreState → Option Status
  | .mounting => some .mounting
  | .formatting => some .formatting
  | .ready => none
  | .readOnly _ => none

/-- The store-state check of a request that is served in READY alone (Table 35). -/
def StoreState.writeGate : StoreState → Option Status
  | .mounting => some .mounting
  | .formatting => some .formatting
  | .readOnly _ => some .readOnly
  | .ready => none

/-! ## Notices -/

/-- The queue with the loss mark of its last entry set (R127). -/
def markTail : List Notice → List Notice
  | [] => []
  | [n] => [{ n with lossMark := true }]
  | n :: m :: rest => n :: markTail (m :: rest)

/-- A notice appended to a queue, or discarded with the tail's loss mark set when the queue is full (R127). -/
def appendNotice (body : NoticeBody) (q : List Notice) : List Notice :=
  if q.length < Config.noticeDepth then q ++ [⟨body, false⟩] else markTail q

/-- Sends a notice to port `p` (R127). -/
def State.notify (s : State) (p : Port) (body : NoticeBody) : State :=
  s.onPort p fun c => { c with notices := appendNotice body c.notices }

/-- Sends a notice to every port. -/
def State.notifyAll (s : State) (body : NoticeBody) : State :=
  s.onPorts fun c => { c with notices := appendNotice body c.notices }

/-! ## Windows and areas -/

/-- The definition covers the record (R101). -/
def WindowDef.covers (d : WindowDef) (r : HostRecord) : Bool :=
  decide (d.base ≤ r.val) && decide (r.val < d.base + d.size)

/-- Window `w` is defined and covers the record. -/
def Layout.covers (l : Layout) (w : WindowNo) (r : HostRecord) : Bool :=
  match l.get w with
  | some d => d.covers r
  | none => false

/-- The area of a record: the window that covers it, or area 16 (R101). -/
def areaOf (l : Layout) (r : HostRecord) : AreaNo :=
  match allWindows.find? fun w => Layout.covers l w r with
  | some w => w.castSucc
  | none => Config.outerArea

/-- The window an area stands for; none for the outer area. -/
def windowOfArea (a : AreaNo) : Option WindowNo := if h : a.val < 16 then some ⟨a.val, h⟩ else none

/-- The policy of an area: its window's, and OPEN for the outer area (R101, R103). -/
def policyOf (l : Layout) (a : AreaNo) : Policy :=
  match windowOfArea a with
  | some w => ((l.get w).map WindowDef.policy).getD .openWrite
  | none => .openWrite

/-- Two definitions cover a record in common (R101). -/
def WindowDef.overlaps (d e : WindowDef) : Bool :=
  decide (d.base < e.base + e.size) && decide (e.base < d.base + d.size)

/-- The sizes a window may have (R101). -/
def windowSizes : List Nat := [1, 2, 4, 8, 16, 32, 64, 128]

/-- The definition lies within the ranges of R101. -/
def WindowDef.inRange (d : WindowDef) : Bool :=
  decide (d.base < 128) && windowSizes.contains d.size && d.base % d.size == 0 && decide (d.base + d.size ≤ 128)
    && match d.policy with
      | .leased t => decide (1 ≤ t) && decide (t ≤ 255)
      | .openWrite => true
      | .frozen => true

/-- The definition of some other window of the list overlaps `d` (R120). -/
def Layout.overlapsOther (l : Layout) (w : WindowNo) (d : WindowDef) : Bool :=
  allWindows.any fun v => v != w && match l.get v with
    | some e => d.overlaps e
    | none => false

/-- The list is one a layout commit could have produced: every definition in range and no two overlapping (R86). -/
def Layout.valid (l : Layout) : Bool :=
  allWindows.all fun w => match l.get w with
    | some d => d.inRange && !l.overlapsOther w d
    | none => true

/-! ## Leases -/

/-- The lease state of window `w`. -/
def State.lease (s : State) (w : WindowNo) : LeaseState := s.leases.get w

/-- The state with the lease state of window `w` replaced. -/
def State.setLease (s : State) (w : WindowNo) (l : LeaseState) : State := { s with leases := s.leases.set w l }

/-- Port `p` holds the lease of window `w`. -/
def State.holds (s : State) (p : Port) (w : WindowNo) : Bool :=
  match (s.lease w).held with
  | some h => h.port == p
  | none => false

/-- The lease time of window `w` in the Window Table, to which a load sets the timer (R105). A window that is not LEASED
has no holder and no load (R104); 0 stands there (log entry 21). -/
def State.leaseTime (s : State) (w : WindowNo) : Nat :=
  match s.windows.get w with
  | some d => d.policy.ticks
  | none => 0

/-- Loads the timer of window `w`, if it is held (R105). -/
def State.loadTimer (s : State) (w : WindowNo) : State :=
  match (s.lease w).held with
  | some h => s.setLease w { s.lease w with held := some { h with timer := s.leaseTime w } }
  | none => s

/-- The lease of window `w` passes on to the oldest waiter, with a loaded timer and a LEASE_GRANTED notice, or the window
becomes free (R106). -/
def State.passOn (s : State) (w : WindowNo) : State :=
  match (s.lease w).waiters with
  | [] => s.setLease w .free
  | q :: rest => (s.setLease w ⟨some ⟨q, s.leaseTime w, false⟩, rest⟩).notify q (.leaseGranted w)

/-- Expiry of window `w`: LEASE_EXPIRED to the holder, and the lease passes on (R114). -/
def State.expire (s : State) (w : WindowNo) : State :=
  match (s.lease w).held with
  | some h => (s.notify h.port (.leaseExpired w)).passOn w
  | none => s

/-- Removes port `p` from the wait list of every window (R115). -/
def State.leaveWaitLists (s : State) (p : Port) : State :=
  { s with leases := s.leases.map fun l => { l with waiters := l.waiters.filter fun q => q != p } }

/-- Every window port `p` holds passes on, in increasing order of window number (R115). -/
def State.passOnAll (s : State) (p : Port) : State :=
  allWindows.foldl (fun s w => if s.holds p w then s.passOn w else s) s

/-- A staging list has a record entry that window `w` covers under the Window Table (R109). -/
def Staging.touches (l : Layout) (w : WindowNo) : Staging → Bool
  | .records es => es.any fun e => Layout.covers l w e.record
  | .define _ _ => false
  | .clear _ => false

/-- Port `p` has a pending commit in window `w`: QUEUED or RUNNING with a record entry in the window (R109). -/
def State.pendingCommit (s : State) (p : Port) (w : WindowNo) : Bool :=
  match (s.port p).txn with
  | .queued => (s.port p).staging.touches s.windows w
  | .running => (s.port p).staging.touches s.windows w
  | .none => false
  | .opened => false

/-- Freezes every window that port `p` holds and that covers a record entry of the list (R112). -/
def State.freeze (s : State) (p : Port) (staging : Staging) : State :=
  { s with leases := Table.build 16 fun w =>
      let l := s.leases.get w
      match l.held with
      | some h => if h.port == p && staging.touches s.windows w then { l with held := some { h with frozen := true } } else l
      | none => l }

/-- The end of the freeze of port `p`'s commit: every window frozen and held by the port is unfrozen and loaded (R113). -/
def State.endFreeze (s : State) (p : Port) : State :=
  { s with leases := Table.build 16 fun w =>
      let l := s.leases.get w
      match l.held with
      | some h => if h.port == p && h.frozen then { l with held := some ⟨p, s.leaseTime w, false⟩ } else l
      | none => l }

/-- The tick as window `w` takes it: a timer that is not frozen is lowered by 1 and expires when it comes to 0 (R105). -/
def State.tickWindow (s : State) (w : WindowNo) : State :=
  match (s.lease w).held with
  | some h =>
    if h.frozen then s
    else if h.timer ≤ 1 then s.expire w
    else s.setLease w { s.lease w with held := some { h with timer := h.timer - 1 } }
  | none => s

/-- A tick of the Lease Unit, one event (R105): every window takes it, in increasing order of window number. -/
def State.tick (s : State) : State := allWindows.foldl State.tickWindow s

/-! ## The Commit Queue -/

/-- The number of entries of a staging list (R169: 1 for a layout commit). -/
def Staging.count : Staging → Nat
  | .records es => es.length
  | .define _ _ => 1
  | .clear _ => 1

/-- A submission is accepted: the token counter rises by 1 modulo 256, the transaction is QUEUED with the list, and the
entry joins the tail of the queue; the result is QUEUED with the token and the place (R46, R47, R118). -/
def State.submit (s : State) (p : Port) (staging : Staging) : State × ResultHolder :=
  let token := (s.port p).tokenCounter + 1
  let t := s.onPort p fun c => { c with txn := .queued, staging := staging, tokenCounter := token }
  ({ t with queue := s.queue ++ [⟨p, token, staging⟩] }, .result .queued [token, byteOf (s.queue.length + 1)])

/-- The committing port's side of a commit that ends without a commit point: transaction NONE, list discarded, last
outcome the reason with the token (R51, R53, R58). -/
def PortState.failCommit (token : Token) (reason : FailReason) (c : PortState) : PortState :=
  { c with txn := .none, staging := .records [], lastOutcome := ⟨some token, .failed reason, none⟩ }

/-- A queued commit leaves the queue without starting; its port receives COMMIT_FAILED if `tell` is set, and its freeze
ends (R51, R53). `record` names the record of a CONFLICT. -/
def State.failQueued (s : State) (e : QueueEntry) (reason : FailReason) (record : Option HostRecord) (tell : Bool) :
    State :=
  let t := { s with queue := s.queue.filter fun x => x.port != e.port }
  let u := t.onPort e.port (PortState.failCommit e.token reason)
  let v := if tell then u.notify e.port (.commitFailed e.token reason record) else u
  v.endFreeze e.port

/-- The entry of port `p` in the Commit Queue. -/
def State.queueEntry (s : State) (p : Port) : Option QueueEntry := s.queue.find? fun e => e.port == p

/-- Every queued commit is removed with the reason, each with its COMMIT_FAILED notice (R51). -/
def State.failAllQueued (s : State) (reason : FailReason) : State :=
  s.queue.foldl (fun s e => s.failQueued e reason none true) s

/-- The store enters READ_ONLY: STORE_STATE to every port, then every queued commit fails with READ_ONLY (R51, R133,
R160). -/
def State.enterReadOnly (s : State) (reason : ReadOnlyReason) : State :=
  (({ s with store := .readOnly reason }).notifyAll (.storeState (.readOnly reason))).failAllQueued .readOnly

/-! ## Scans -/

/-- A cursor of scope AREA that has not ended takes the end reason LAYOUT (R17). -/
def ScanCursor.endLayout (c : ScanCursor) : ScanCursor :=
  match c.scope, c.endReason with
  | .area, none => { c with endReason := some .layout }
  | _, _ => c

/-- The end of every area-scope scan with reason LAYOUT (R17). -/
def PortState.endAreaScan (c : PortState) : PortState :=
  match c.holder with
  | .scan cursor => { c with holder := .scan cursor.endLayout }
  | .empty => c
  | .result _ _ => c

end Sys2Proof.Machine
end

