-- ==== Sys2Proof/Machine/PageOps.lean ====
section
/-!
DEFINITION. The shared operations over the Page Directory, the Page Array, the Transaction Census and the Record Table:
allocation, retirement, the pin rule, and the switching of records.
-/

namespace Sys2Proof.Machine

/-! ## Page states and counts -/

def PageEntry.isClean : PageEntry → Bool
  | .clean => true
  | _ => false

def PageEntry.isPending : PageEntry → Bool
  | .pending _ => true
  | _ => false

def PageEntry.isLive : PageEntry → Bool
  | .live _ => true
  | _ => false

def PageEntry.isRetained : PageEntry → Bool
  | .retained _ => true
  | _ => false

def PageEntry.isStale : PageEntry → Bool
  | .stale => true
  | _ => false

def PageEntry.isBad : PageEntry → Bool
  | .bad => true
  | _ => false

/-- The header fields the Page Directory holds for a page (R22). -/
def PageEntry.header : PageEntry → Option Header
  | .pending h => h
  | .live h => some h
  | .retained h => some h
  | .clean => none
  | .stale => none
  | .bad => none

/-- The number of CLEAN pages (R54). -/
def State.cleanCount (s : State) : Nat := s.pages.count PageEntry.isClean

/-- The directory entry of a page. -/
def State.page (s : State) (g : PageNo) : PageEntry := s.pages.get g

/-- The state with the directory entry of page `g` replaced. -/
def State.setPage (s : State) (g : PageNo) (e : PageEntry) : State := { s with pages := s.pages.set g e }

/-- The state with the content of page `g` of the array replaced. -/
def State.setArray (s : State) (g : PageNo) (c : PageContent) : State := { s with array := s.array.set g c }

/-- The STALE page of lowest number (R71). -/
def State.lowestStale (s : State) : Option PageNo := allPages.find? fun g => (s.page g).isStale

/-- The page after `g`, page 0 after page 319 (R24). -/
def nextPage (g : PageNo) : PageNo := g + 1

/-! ## Allocation (R24) -/

/-- The pages in the order of the search: from the pointer upward, and on at page 0 (R24). -/
def searchOrder (pointer : PageNo) : List PageNo :=
  (allPages.filter fun g => pointer ≤ g) ++ (allPages.filter fun g => g < pointer)

/-- The first CLEAN page from the allocation pointer, if any (R24). -/
def State.findClean (s : State) : Option PageNo := (searchOrder s.pointer).find? fun g => (s.page g).isClean

/-- Page `g` is allocated: it becomes PENDING without header fields and the pointer names the page after it (R24). -/
def State.allocate (s : State) (g : PageNo) : State := { s.setPage g (.pending none) with pointer := nextPage g }

/-! ## Retirement (R27, R28) -/

/-- What a page holds after its retirement mark (R27, R28). -/
def markContent : MarkOutcome → PageContent
  | .took => .retired
  | .leftBlank => .blank
  | .leftDamaged => .damaged

/-- Page `g` is retired: BAD, without header fields, and the bad count rises by 1 (R27, R28). -/
def State.retire (s : State) (g : PageNo) : State := { s.setPage g .bad with badCount := s.badCount + 1 }

/-! ## The pin rule (R67, R68) -/

/-- The live count of a Census entry (Table 16). -/
def CensusEntry.live (e : CensusEntry) : Nat := e.pages.countP CensusPage.live

/-- The retained count of a Census entry (Table 16). -/
def CensusEntry.retained (e : CensusEntry) : Nat := e.pages.countP fun p => !p.live

/-- The Census entry with page `g` no longer LIVE. -/
def CensusEntry.unlive (e : CensusEntry) (g : PageNo) : CensusEntry :=
  { e with pages := e.pages.map fun p => if p.page = g then { p with live := false } else p }

/-- A LIVE page keeps its header fields as it becomes RETAINED (R67). -/
def PageEntry.toRetained : PageEntry → PageEntry
  | .live h => .retained h
  | .clean => .clean
  | .pending h => .pending h
  | .retained h => .retained h
  | .stale => .stale
  | .bad => .bad

/-- Every page of the list becomes STALE, without header fields. -/
def State.makeStale (s : State) (pages : List PageNo) : State :=
  pages.foldl (fun s g => s.setPage g .stale) s

/-- LIVE page `g` of the transaction `q` is superseded: it becomes RETAINED while its transaction has another LIVE page;
as the last one, it and every RETAINED page of the transaction become STALE and the Census entry is removed (R67). -/
def State.supersede (s : State) (g : PageNo) (q : Sequence) : State :=
  match s.census.find? fun e => e.sequence == q with
  | none => s.setPage g .stale
  | some e =>
    let f := e.unlive g
    if f.live = 0 then
      { s.makeStale (f.pages.map CensusPage.page) with census := s.census.filter fun x => x.sequence != q }
    else
      { s.setPage g (s.page g).toRetained with
        census := s.census.map fun x => if x.sequence == q then f else x }

/-- A Census entry put in its place in the increasing order of sequences (R65). -/
def insertCensus (e : CensusEntry) : List CensusEntry → List CensusEntry
  | [] => [e]
  | x :: rest => if e.sequence.toNat < x.sequence.toNat then e :: x :: rest else x :: insertCensus e rest

/-- The Census takes an entry for a completed job: its pages, all LIVE, in position order (R66). -/
def State.createCensus (s : State) (q : Sequence) (pages : List PageNo) : State :=
  { s with census := insertCensus ⟨q, pages.map fun g => ⟨g, true⟩⟩ s.census }

/-! ## Records -/

/-- The Record Table entry of a record. -/
def State.record (s : State) (r : RecordNo) : RecordEntry := s.records.get r

/-- The state with the entry of record `r` replaced. -/
def State.setRecord (s : State) (r : RecordNo) (e : RecordEntry) : State := { s with records := s.records.set r e }

/-- The version of an entry, 0 in UNWRITTEN (R2). -/
def RecordEntry.version : RecordEntry → Version
  | .unwritten => 0
  | .present v _ _ _ => v
  | .deleted v _ _ => v

/-- The page and the sequence of an entry that is PRESENT or DELETED (R2). -/
def RecordEntry.backing : RecordEntry → Option (PageNo × Sequence)
  | .unwritten => none
  | .present _ _ g q => some (g, q)
  | .deleted _ g q => some (g, q)

/-- The data of an entry in the record image (R3). -/
def RecordEntry.payload : RecordEntry → Payload
  | .unwritten => .none
  | .present _ d _ _ => d
  | .deleted _ _ _ => .none

/-- The bytes of a payload. -/
def Payload.data : Payload → List Byte
  | .bytes d => d
  | .none => []
  | .layout _ => []

/-- The code of a record state (Table 42). -/
def RecordEntry.stateCode : RecordEntry → Byte
  | .unwritten => 0x00
  | .present _ _ _ _ => 0x01
  | .deleted _ _ _ => 0x02

/-- The version after a committed change: old + 1, with 65535 followed by 1 (R4). -/
def nextVersion (v : Version) : Version := if v = 0xFFFF then 1 else v + 1

/-- A record as READ and a scan block send it: number, state, version, length, data (Table 41, Table 44). -/
def State.recordBytes (s : State) (r : HostRecord) : List Byte :=
  let e := s.record (tableNo r)
  [byteOf r.val, e.stateCode] ++ be16 e.version ++ byteOf e.payload.data.length :: e.payload.data

/-- The former LIVE page of record `r`, if any, is superseded (R5, R6). -/
def State.supersedeRecord (s : State) (r : RecordNo) : State :=
  match (s.record r).backing with
  | some b => s.supersede b.1 b.2
  | none => s

/-- The Record Table entry that a page image in effect on page `g` gives its record: PRESENT for DATA and LAYOUT, DELETED
for TOMBSTONE (R5, R6, R7, R10). -/
def PageImage.entry (i : PageImage) (g : PageNo) : RecordEntry :=
  match i.header.kind with
  | .data => .present (i.header.version.getD 0) i.payload g i.header.sequence
  | .layout => .present (i.header.version.getD 0) i.payload g i.header.sequence
  | .tombstone => .deleted (i.header.version.getD 0) g i.header.sequence
  | .epoch => .unwritten

/-- An entry that takes a new page and sequence, its state, version, length and data unchanged (R9, R77). -/
def RecordEntry.moveTo (e : RecordEntry) (g : PageNo) (q : Sequence) : RecordEntry :=
  match e with
  | .unwritten => .unwritten
  | .present v d _ _ => .present v d g q
  | .deleted v _ _ => .deleted v g q

/-- The entry after an image of a completed job takes effect on page `g`: moved by a relocation, set from the image by a
commit. -/
def RecordEntry.switched (e : RecordEntry) (i : PageImage) (g : PageNo) : RecordEntry :=
  if i.header.relocated then e.moveTo g i.header.sequence else i.entry g

/-- An image of a completed job takes effect on its page: the record's former page is superseded, the page becomes LIVE
and the record's entry is switched (R5, R6, R7, R9, R30, R59, R77). -/
def State.takeEffect (s : State) (i : PageImage) (g : PageNo) : State :=
  match i.header.record with
  | some r => ((s.supersedeRecord r).setPage g (.live i.header)).setRecord r ((s.record r).switched i g)
  | none => s

/-- Every image of a job takes effect on its page, in position order. -/
def State.takeEffectAll (s : State) (images : List PageImage) (pages : List PageNo) : State :=
  (images.zip pages).foldl (fun s x => s.takeEffect x.1 x.2) s

/-- Every PENDING page becomes STALE, without header fields (R30, R58, R78). -/
def State.dropPending (s : State) : State :=
  { s with pages := s.pages.map fun e => match e with
      | .pending _ => .stale
      | .clean => .clean
      | .live h => .live h
      | .retained h => .retained h
      | .stale => .stale
      | .bad => .bad }

/-! ## Writing and reading a page (R21) -/

/-- The image that a job programs: its fields, and the page check over them that is written with the image (R21). -/
def PageImage.checked (header : Header) (payload : Payload) : PageImage :=
  ⟨header, payload, Config.pageCheck header payload⟩

/-- The stored check agrees with the image's fields (R21). -/
def PageImage.agrees (i : PageImage) : Bool := i.check == Config.pageCheck i.header i.payload

/-- The verdict of a page read (R21). -/
inductive PageVerdict where
  | blank
  | retired
  | valid (image : PageImage)
  | damaged
  deriving DecidableEq, Repr

/-- The position, count and sequence lie within the ranges of Table 7. -/
def Header.groupInRange (h : Header) : Bool :=
  decide (1 ≤ h.position) && decide (h.position ≤ h.count) && decide (h.count ≤ 8)
    && h.sequence != 0 && h.sequence != Config.sequenceEnd

/-- The version is present and not 0. -/
def Header.versionInRange (h : Header) : Bool := h.version.isSome && h.version != some 0

/-- The record is a host-visible one. -/
def Header.hostRecordInRange (h : Header) : Bool :=
  match h.record with
  | some r => decide (r.val < 128)
  | none => false

/-- Every field lies within the ranges of Table 7 for the image's kind (R21). -/
def PageImage.inRange (i : PageImage) : Bool :=
  i.header.groupInRange &&
    match i.header.kind, i.payload with
    | .data, .bytes d => i.header.hostRecordInRange && i.header.versionInRange && decide (d.length ≤ Config.dataLimit)
    | .tombstone, .none => i.header.hostRecordInRange && i.header.versionInRange
    | .layout, .layout _ => i.header.record == some Config.layoutRecord && i.header.versionInRange
    | .epoch, .none =>
      i.header.record == none && i.header.version == none && i.header.position == 1 && i.header.count == 1
        && !i.header.relocated
    | _, _ => false

/-- The verdict of a read of a page that holds this content (R21): an image is VALID when its check agrees with its fields
and they lie within their ranges. -/
def PageContent.verdict : PageContent → PageVerdict
  | .blank => .blank
  | .retired => .retired
  | .programmed i => if i.agrees && i.inRange then .valid i else .damaged
  | .damaged => .damaged

end Sys2Proof.Machine
end

