-- ==== Sys2Proof/Machine/JobOps.lean ====
section
/-!
DEFINITION. The jobs of the Array Engine: validation and start of a commit, the programming of a commit's or a
relocation's images, commit points and failures, relocation, the format, and the job choice. Each cites its rule.
-/

namespace Sys2Proof.Machine

/-! ## The end of a job -/

/-- A job has ended: the engine is free, and a READY store with more than 32 BAD pages enters READ_ONLY with reason
MEDIA (R32, R160). -/
def State.endJob (s : State) : State :=
  let t := { s with job := .idle, op := none }
  if t.store = .ready ∧ Config.badLimit < t.badCount then t.enterReadOnly .media else t

/-! ## Validation (R52, R120) -/

/-- What validation finds: nothing wrong, or a reason, with the record for CONFLICT. -/
abbrev Validation := Option (FailReason × Option HostRecord)

/-- The three checks on one record entry, in their order (R52). -/
def State.validateEntry (s : State) (p : Port) (e : StagedEntry) : Validation :=
  let area := areaOf s.windows e.record
  let leaseOk : Bool := match windowOfArea area with
    | some w => s.holds p w
    | none => true
  let conflict : Validation := match e.expected with
    | some v => if v = (s.record (tableNo e.record)).version then none else some (.conflict, some e.record)
    | none => none
  match policyOf s.windows area with
  | .frozen => some (.policy, none)
  | .leased _ => if leaseOk then conflict else some (.leaseLost, none)
  | .openWrite => conflict

/-- The first failure among the entries in staging order (R52). -/
def State.validateEntries (s : State) (p : Port) : List StagedEntry → Validation
  | [] => none
  | e :: rest =>
    match s.validateEntry p e with
    | some f => some f
    | none => s.validateEntries p rest

/-- The checks on the window a layout entry names, when it is defined: NOT_SERVICE for a FROZEN one, then HELD (R120). -/
def State.validateNamed (s : State) (p : Port) (w : WindowNo) (d : WindowDef) : Validation :=
  if d.policy = .frozen ∧ (s.port p).service = false then some (.notService, none)
  else if (s.lease w).held.isSome then some (.held, none)
  else none

/-- Validation of a queue head (R52, R120). -/
def State.validate (s : State) (e : QueueEntry) : Validation :=
  match e.staging with
  | .records es => s.validateEntries e.port es
  | .define w d =>
    if s.windows.overlapsOther w d then some (.overlap, none)
    else match s.windows.get w with
      | some old => s.validateNamed e.port w old
      | none => if (s.lease w).held.isSome then some (.held, none) else none
  | .clear w =>
    match s.windows.get w with
    | some old => s.validateNamed e.port w old
    | none => none

/-! ## Programming the images of a commit or a relocation (R56, R76) -/

/-- The next image to program: that of the position after the verified ones. -/
def ImageRun.nextImage (r : ImageRun) : Option PageImage := r.images[r.verified.length]?

/-- MEDIA failure of a commit: PENDING pages STALE, the port's side, COMMIT_FAILED, the freeze ends, the job ends (R58).-/
def State.commitMediaFailure (s : State) (p : Port) (token : Token) : State :=
  let t := (s.dropPending).onPort p (PortState.failCommit token .media)
  ((t.notify p (.commitFailed token .media none)).endFreeze p).endJob

/-- MEDIA failure of a relocation: PENDING pages STALE, the job ends (R78). -/
def State.relocationMediaFailure (s : State) : State := s.dropPending.endJob

/-- The allocation and the issue of the program of the next image of a run, or `fail` when no page is CLEAN (R56, R58,
R76, R78). While PFW is asserted nothing is allocated and the job is suspended (R97). -/
def State.programNext (s : State) (run : ImageRun) (fail : State → State) : State :=
  if s.pfw then { s with op := none }
  else match run.nextImage with
    | none => { s with op := none }
    | some i => match s.findClean with
      | none => fail { s with op := none }
      | some g => { s.allocate g with op := some (.program g i) }

/-! ## The commit point (R59, R60) -/

/-- The record entries of a staging list. -/
def Staging.entries : Staging → List StagedEntry
  | .records es => es
  | .define _ _ => []
  | .clear _ => []

/-- The records of a commit that lie in an area under the Window Table (R60). -/
def Staging.inArea (staging : Staging) (l : Layout) (a : AreaNo) : List HostRecord :=
  (staging.entries.map StagedEntry.record).filter fun r => areaOf l r == a

/-- The lowest of some records. -/
def lowestRecord : List HostRecord → Option HostRecord
  | [] => none
  | r :: rest => some (rest.foldl (fun a b => if b < a then b else a) r)

/-- The CHANGED notice of one area, if a record of the commit lies in it (R60, R130). -/
def changedNotice (l : Layout) (staging : Staging) (p : Port) (q : Sequence) (a : AreaNo) : Option NoticeBody :=
  (lowestRecord (staging.inArea l a)).map fun r => .changed a r (staging.inArea l a).length p q

/-- The CHANGED notices of a commit point to one port: for each area it watches that holds a record of the commit, in
increasing area number (R60, R128, R130). -/
def changedFor (l : Layout) (staging : Staging) (p : Port) (q : Sequence) (watch : Table Bool 17) : List NoticeBody :=
  (allAreas.filter fun a => watch.get a).filterMap (changedNotice l staging p q)

/-- Sends several notices to port `p` in their order. -/
def State.notifyList (s : State) (p : Port) (bodies : List NoticeBody) : State :=
  bodies.foldl (fun s b => s.notify p b) s

/-- The CHANGED notices of a commit point to every port other than the committer (R60, R130). -/
def State.sendChanged (s : State) (staging : Staging) (p : Port) (q : Sequence) : State :=
  allPorts.foldl
    (fun s o => if o = p then s else s.notifyList o (changedFor s.windows staging p q (s.port o).watch)) s

/-- The list that a layout entry gives, applied to a list (R121). -/
def Staging.newLayout (l : Layout) : Staging → Layout
  | .define w d => l.set w (some d)
  | .clear w => l.set w none
  | .records _ => l

/-- The window and the reason of a layout entry (R131). -/
def Staging.layoutEntry : Staging → Option (WindowNo × LayoutReason)
  | .define w _ => some (w, .define)
  | .clear w => some (w, .clear)
  | .records _ => none

/-- The switch of the Window Table at a layout commit point, to the list on the LAYOUT page (R7, R59, R121). -/
def State.switchWindows (s : State) (images : List PageImage) : State :=
  match images.head?.map PageImage.payload with
  | some (.layout l) => { s with windows := l }
  | some (.bytes _) => s
  | some .none => s
  | none => s

/-- LAYOUT_CHANGED to every port other than the committer (R60, R131). -/
def State.sendLayoutChanged (s : State) (w : WindowNo) (reason : LayoutReason) (p : Port) (q : Sequence) : State :=
  allPorts.foldl (fun s o => if o = p then s else s.notify o (.layoutChanged w reason p q)) s

/-- The lease state of the window a layout commit names, settled against the new list: kept if the window is LEASED, else
revoked with LEASE_REVOKED to the holder and the wait list emptied (R122). -/
def State.settleLease (s : State) (w : WindowNo) : State :=
  match (s.windows.get w).map WindowDef.policy with
  | some (.leased _) => s
  | _ =>
    match (s.lease w).held with
    | some h => (s.setLease w .free).notify h.port (.leaseRevoked w)
    | none => s

/-- A CLEAR removes the window from every watch set; a DEFINE keeps every watch (R121). -/
def State.settleWatches (s : State) (w : WindowNo) (reason : LayoutReason) : State :=
  match reason with
  | .clear => s.onPorts fun c => { c with watch := c.watch.set w.castSucc false }
  | .define => s

/-- The committer's side at the commit point (R60). -/
def PortState.completeCommit (token : Token) (q : Sequence) (c : PortState) : PortState :=
  { c with txn := .none, staging := .records [], lastOutcome := ⟨some token, .done, some q⟩ }

/-- What a commit point brings beside records and pages: for a layout commit the Window Table, the watches, the area
scans, LAYOUT_CHANGED and the lease of the window named; for a record commit CHANGED (R59, R60, R121, R122, R17). -/
def State.announce (s : State) (p : Port) (staging : Staging) (run : ImageRun) : State :=
  match staging.layoutEntry with
  | some x =>
    let t := ((s.switchWindows run.images).settleWatches x.1 x.2).onPorts PortState.endAreaScan
    (t.sendLayoutChanged x.1 x.2 p run.sequence).settleLease x.1
  | none => s.sendChanged staging p run.sequence

/-- The commit point (R59, R60): records and pages switch, the Census takes an entry, COMMIT_DONE and the other notices
are sent, the freeze ends, and the job ends. -/
def State.commitPoint (s : State) (p : Port) (token : Token) (staging : Staging) (run : ImageRun) : State :=
  let t := (s.takeEffectAll run.images run.verified).createCensus run.sequence run.verified
  let u := t.onPort p (PortState.completeCommit token run.sequence)
  let v := u.notify p (.commitDone token staging.count run.sequence)
  ((v.announce p staging run).endFreeze p).endJob

/-- The completion point of a relocation (R77). -/
def State.relocationPoint (s : State) (run : ImageRun) : State :=
  ((s.takeEffectAll run.images run.verified).createCensus run.sequence run.verified).endJob

/-! ## Starting a commit (R55) -/

/-- The images of record entries, in position order (R55). -/
def State.recordImages (s : State) (q : Sequence) (count : Nat) : Nat → List StagedEntry → List PageImage
  | _, [] => []
  | k, e :: rest =>
    let version := nextVersion (s.record (tableNo e.record)).version
    let image : PageImage := match e.op with
      | .write d => .checked ⟨.data, some (tableNo e.record), some version, q, k, count, false⟩ (.bytes d)
      | .delete => .checked ⟨.tombstone, some (tableNo e.record), some version, q, k, count, false⟩ .none
    image :: s.recordImages q count (k + 1) rest

/-- The image of a layout entry (R55, R121). -/
def State.layoutImage (s : State) (q : Sequence) (staging : Staging) : PageImage :=
  .checked ⟨.layout, some Config.layoutRecord, some (nextVersion (s.record Config.layoutRecord).version), q, 1, 1, false⟩
    (.layout (staging.newLayout s.windows))

/-- The images a commit will program, fixed at its start (R55). -/
def State.commitImages (s : State) (q : Sequence) (staging : Staging) : List PageImage :=
  match staging with
  | .records es => s.recordImages q es.length 1 es
  | .define _ _ => [s.layoutImage q staging]
  | .clear _ => [s.layoutImage q staging]

/-- The start of a commit that has passed validation and the space check: READ_ONLY with reason SEQUENCE when no sequence
is left (R35); otherwise the sequence is taken, the commit leaves the queue, its port is RUNNING, its images are fixed
and its first program is issued (R55, R56). -/
def State.startCommit (s : State) (e : QueueEntry) : State :=
  if s.nextSequence = Config.sequenceEnd then s.enterReadOnly .sequence
  else
    let q := s.nextSequence
    let run : ImageRun := ⟨q, s.commitImages q e.staging, [], 0⟩
    let t := { s with
      nextSequence := q + 1
      queue := s.queue.filter fun x => x.port != e.port
      job := .commit e.port e.token e.staging run }
    (t.onPort e.port fun c => { c with txn := .running }).programNext run
      fun u => u.commitMediaFailure e.port e.token

/-! ## Reclamation (R71 to R75) -/

/-- The relocation target: the Census entry of lowest sequence with a RETAINED page and no more LIVE pages than there are
CLEAN ones (R74). -/
def State.relocationTarget (s : State) : Option CensusEntry :=
  s.census.find? fun e => decide (1 ≤ e.retained) && decide (e.live ≤ s.cleanCount)

/-- The image a relocation programs for LIVE page `g`, whose header is `h` (R75). -/
def State.copyImage (s : State) (q : Sequence) (k count : Nat) (h : Header) : PageImage :=
  let e := (h.record.map s.record).getD .unwritten
  .checked ⟨h.kind, h.record, some e.version, q, k, count, true⟩ e.payload

/-- The images of a relocation: one for each LIVE page of the target, in the order of its positions (R75). -/
def State.copyImages (s : State) (q : Sequence) (count : Nat) : Nat → List PageNo → List PageImage
  | _, [] => []
  | k, g :: rest =>
    match (s.page g).header with
    | some h => s.copyImage q k count h :: s.copyImages q count (k + 1) rest
    | none => s.copyImages q count (k + 1) rest

/-- The start of a relocation (R75), or READ_ONLY with reason SEQUENCE (R35). -/
def State.startRelocation (s : State) (target : CensusEntry) : State :=
  if s.nextSequence = Config.sequenceEnd then s.enterReadOnly .sequence
  else
    let q := s.nextSequence
    let live := (target.pages.filter CensusPage.live).map CensusPage.page
    let run : ImageRun := ⟨q, s.copyImages q live.length 1 live, [], 0⟩
    ({ s with nextSequence := q + 1, job := .relocate target.sequence run }).programNext run
      State.relocationMediaFailure

/-- The issue of an ERASE job's one operation, unless PFW is asserted (R73, R97). -/
def State.issueErase (s : State) (g : PageNo) : State :=
  if s.pfw then { s with op := none } else { s with op := some (.erase g) }

/-- The start of an ERASE job (R73). -/
def State.startErase (s : State) (g : PageNo) : State := ({ s with job := .erase g }).issueErase g

/-- The choice with an empty queue (R71). -/
def State.chooseIdle (s : State) : State :=
  match s.lowestStale with
  | some g => s.startErase g
  | none =>
    if s.cleanCount < Config.relocateBelow then
      match s.relocationTarget with
      | some e => s.startRelocation e
      | none => { s with job := .idle, op := none }
    else { s with job := .idle, op := none }

/-- The choice while the head waits for space (R72). -/
def State.chooseWaiting (s : State) : State :=
  match s.lowestStale with
  | some g => s.startErase g
  | none =>
    match s.relocationTarget with
    | some e => s.startRelocation e
    | none => s.enterReadOnly .space

/-- The engine takes up the queue's entries from the head: one that fails validation ends and the next is taken up at
once; a valid one starts if enough pages are CLEAN, else it waits (R53, R54, R70). -/
def State.takeUp (s : State) : List QueueEntry → State
  | [] => s.chooseIdle
  | e :: rest =>
    match s.validate e with
    | some f => (s.failQueued e f.1 f.2 true).takeUp rest
    | none =>
      if e.staging.count + Config.spaceReserve ≤ s.cleanCount then s.startCommit e else s.chooseWaiting

/-- The engine is free to make a job choice (R69). -/
def State.mayChoose (s : State) : Bool :=
  !s.inReset && s.store == .ready && s.job == .idle && !s.pfw

/-! ## The format (R166, R167, R168) -/

/-- The next page the second step erases: the first from `next` on that is not CLEAN, not BAD and not the epoch page
(R167). -/
def State.sweepTarget (s : State) (next : Nat) (epochPage : Option PageNo) : Option PageNo :=
  allPages.find? fun g =>
    decide (next ≤ g.val) && !(s.page g).isClean && !(s.page g).isBad && epochPage != some g

/-- The pages noted become CLEAN or BAD at the end of the format, and the bad count rises by the failed ones (R29). -/
def State.settleNoted (s : State) (noted : List NotedErase) : State :=
  noted.foldl (fun s n => if n.erased then s.setPage n.page .clean else s.retire n.page) s

/-- The end of the format (R168). -/
def State.formatEnd (s : State) (noted : List NotedErase) : State :=
  let t := { s.settleNoted noted with
    records := .fill 129 .unwritten
    windows := .fill 16 none
    census := []
    nextSequence := Config.firstSequence
    pointer := 0
    recovered := false
    job := .idle
    op := none }
  let u := t.onPorts fun c => { c.endAreaScan with txn := .none, staging := .records [] }
  let st : StoreState := if Config.badLimit < u.badCount then .readOnly .media else .ready
  ({ u with store := st }).notifyAll (.storeState st)

/-- The second step from page `next` on: the next erase, or the epoch page's, or the end of the format. While PFW is
asserted no erase is issued (R97), but a format with nothing left to erase ends (R168). -/
def State.sweep (s : State) (next : Nat) (epochPage : Option PageNo) (noted : List NotedErase) : State :=
  match s.sweepTarget next epochPage with
  | some g => ({ s with job := .format (.sweep next epochPage) noted }).issueErase g
  | none =>
    match epochPage with
    | some g => ({ s with job := .format (.eraseEpoch g) noted }).issueErase g
    | none => s.formatEnd noted

/-- The first step after `failures` failed attempts: the second step after the third; otherwise the next attempt, which
allocates a CLEAN page, or erases the lowest STALE page to get one, or gives up the epoch page (R166). While PFW is
asserted the attempt waits (R97). -/
def State.epochAttempt (s : State) (q : Sequence) (failures : Nat) (noted : List NotedErase) : State :=
  if Config.epochAttempts ≤ failures then s.sweep 0 none noted
  else if s.pfw then { s with job := .format (.epoch q failures) noted, op := none }
  else
    let t := { s with job := .format (.epoch q failures) noted }
    match t.findClean with
    | some g => { t.allocate g with op := some (.program g (.checked ⟨.epoch, none, none, q, 1, 1, false⟩ .none)) }
    | none =>
      match t.lowestStale with
      | some g => { t with op := some (.erase g) }
      | none => t.sweep 0 none noted

/-- The next step of a format that has reached `step` (R98, R166, R167). -/
def State.formatNext (s : State) (step : FormatStep) (noted : List NotedErase) : State :=
  match step with
  | .epoch q failures => s.epochAttempt q failures noted
  | .sweep next epochPage => s.sweep next epochPage noted
  | .eraseEpoch g => ({ s with job := .format (.eraseEpoch g) noted }).issueErase g

/-- The beginning of the FORMAT job: the sequence E is taken, or with none left there is no epoch page (R33, R35, R165,
R166). -/
def State.beginFormat (s : State) : State :=
  if s.nextSequence = Config.sequenceEnd then s.sweep 0 none []
  else ({ s with nextSequence := s.nextSequence + 1 }).epochAttempt s.nextSequence 0 []

/-- A suspended job goes on with its next step (R98). -/
def State.resume (s : State) : State :=
  match s.op with
  | some _ => s
  | none =>
    match s.job with
    | .idle => s
    | .mount => s
    | .commit p token _ run => s.programNext run fun u => u.commitMediaFailure p token
    | .relocate _ run => s.programNext run State.relocationMediaFailure
    | .erase g => s.issueErase g
    | .format step noted => s.formatNext step noted

/-! ## The verdict of a page program (R26, R27, R57, R58, R76, R166) -/

/-- The page has passed verify: the array holds the image and the directory takes its header fields (R26). -/
def State.programPassed (s : State) (g : PageNo) (i : PageImage) : State :=
  { (s.setArray g (.programmed i)).setPage g (.pending (some i.header)) with op := none }

/-- The page has failed verify: the mark is programmed and the page is retired (R27). -/
def State.programFailed (s : State) (g : PageNo) (mark : MarkOutcome) : State :=
  { (s.setArray g (markContent mark)).retire g with op := none }

/-- A position of a run is verified on page `g`. -/
def ImageRun.verify (r : ImageRun) (g : PageNo) : ImageRun := { r with verified := r.verified ++ [g], retries := 0 }

/-- Every position of the run is verified. -/
def ImageRun.complete (r : ImageRun) : Bool := r.images.length ≤ r.verified.length

/-- A passed program of a commit: the commit point at the last position, else the next position (R56, R59). -/
def State.commitPassed (s : State) (p : Port) (token : Token) (staging : Staging) (run : ImageRun) : State :=
  if run.complete then s.commitPoint p token staging run
  else ({ s with job := .commit p token staging run }).programNext run fun u => u.commitMediaFailure p token

/-- A failed program of a commit: MEDIA after the third attempt, else a retry (R57, R58). -/
def State.commitFailed (s : State) (p : Port) (token : Token) (staging : Staging) (run : ImageRun) : State :=
  if run.retries < Config.retryLimit then
    let again := { run with retries := run.retries + 1 }
    ({ s with job := .commit p token staging again }).programNext again fun u => u.commitMediaFailure p token
  else s.commitMediaFailure p token

/-- A passed program of a relocation (R76, R77). -/
def State.relocationPassed (s : State) (target : Sequence) (run : ImageRun) : State :=
  if run.complete then s.relocationPoint run
  else ({ s with job := .relocate target run }).programNext run State.relocationMediaFailure

/-- A failed program of a relocation (R76, R78). -/
def State.relocationFailed (s : State) (target : Sequence) (run : ImageRun) : State :=
  if run.retries < Config.retryLimit then
    let again := { run with retries := run.retries + 1 }
    ({ s with job := .relocate target again }).programNext again State.relocationMediaFailure
  else s.relocationMediaFailure

/-- The job goes on after a passed program on page `g`. -/
def State.afterPass (s : State) (g : PageNo) : State :=
  match s.job with
  | .commit p token staging run => s.commitPassed p token staging (run.verify g)
  | .relocate target run => s.relocationPassed target (run.verify g)
  | .format (.epoch _ _) noted => s.sweep 0 (some g) noted
  | .format (.sweep _ _) _ => s
  | .format (.eraseEpoch _) _ => s
  | .idle => s
  | .mount => s
  | .erase _ => s

/-- The job goes on after a failed program. -/
def State.afterFail (s : State) : State :=
  match s.job with
  | .commit p token staging run => s.commitFailed p token staging run
  | .relocate target run => s.relocationFailed target run
  | .format (.epoch q failures) noted => s.epochAttempt q (failures + 1) noted
  | .format (.sweep _ _) _ => s
  | .format (.eraseEpoch _) _ => s
  | .idle => s
  | .mount => s
  | .erase _ => s

/-! ## The verdict of a page erase (R28, R29, R73, R166, R167) -/

/-- What the array holds on page `g` after the verdict of its erase (R28). -/
def eraseContent : EraseVerdict → PageContent
  | .erased => .blank
  | .failed mark => markContent mark

/-- The verdict is a success. -/
def eraseSucceeded : EraseVerdict → Bool
  | .erased => true
  | .failed _ => false

/-- The page becomes CLEAN, or it is retired (R28). -/
def State.settleErase (s : State) (g : PageNo) (v : EraseVerdict) : State :=
  match v with
  | .erased => s.setPage g .clean
  | .failed _ => s.retire g

/-- The verdict of an erase of the second step: a LIVE or RETAINED page keeps its state with the outcome noted, any other
page changes at once (R29, R167); then the next page. -/
def State.sweepVerdict (s : State) (g : PageNo) (v : EraseVerdict) (epochPage : Option PageNo)
    (noted : List NotedErase) : State :=
  if (s.page g).isLive || (s.page g).isRetained then
    s.sweep (g.val + 1) epochPage (noted ++ [⟨g, eraseSucceeded v⟩])
  else (s.settleErase g v).sweep (g.val + 1) epochPage noted

/-- The job goes on after the verdict of an erase of page `g`. -/
def State.afterErase (s : State) (g : PageNo) (v : EraseVerdict) : State :=
  match s.job with
  | .erase _ => (s.settleErase g v).endJob
  | .format (.epoch q failures) noted => (s.settleErase g v).epochAttempt q failures noted
  | .format (.sweep _ epochPage) noted => s.sweepVerdict g v epochPage noted
  | .format (.eraseEpoch _) noted => (s.settleErase g v).formatEnd noted
  | .idle => s
  | .mount => s
  | .commit _ _ _ _ => s
  | .relocate _ _ => s

end Sys2Proof.Machine
end

