-- ==== Sys2Proof/Machine/Engine.lean ====
section
/-!
DEFINITION. The Array Engine's steps: JOB_CHOICE, PAGE_PROGRAM_VERDICT, PAGE_ERASE_VERDICT and FORMAT_JOB_BEGIN.
-/

namespace Sys2Proof.Machine

/-- JOB_CHOICE (R69 to R75). With `pfwTogether`, PFW is asserted at an event that falls together with the choice and is
taken second: a job that starts issues no page operation (R98). A choice that the engine may not make is not made. -/
def execJobChoice (pfwTogether : Bool) (s : State) : Host.Outcome State Fault Refusal :=
  let t := { s with pfw := s.pfw || pfwTogether }
  if s.mayChoose then .next (t.takeUp s.queue) else .next t

/-- PAGE_PROGRAM_VERDICT (R26, R27, R56 to R59, R76 to R78, R166). With no program in progress there is no verdict. -/
def execPageProgramVerdict (verdict : ProgramVerdict) (s : State) : Host.Outcome State Fault Refusal :=
  match s.op with
  | some (.program g i) =>
    match verdict with
    | .pass => .next ((s.programPassed g i).afterPass g)
    | .fail mark => .next (s.programFailed g mark).afterFail
  | some (.erase _) => .next s
  | none => .next s

/-- PAGE_ERASE_VERDICT (R28, R29, R73, R166 to R168). With no erase in progress there is no verdict. -/
def execPageEraseVerdict (verdict : EraseVerdict) (s : State) : Host.Outcome State Fault Refusal :=
  match s.op with
  | some (.erase g) => .next (({ s.setArray g (eraseContent verdict) with op := none }).afterErase g verdict)
  | some (.program _ _) => .next s
  | none => .next s

/-- The FORMAT job may begin: a FORMAT was accepted, the engine is free and PFW is deasserted (R165). -/
def State.mayFormat (s : State) : Bool :=
  !s.inReset && s.store == .formatting && s.job == .idle && !s.pfw

/-- FORMAT_JOB_BEGIN (R165, R166). With `pfwTogether`, PFW is asserted at an event that falls together with the beginning
and is taken second: the job issues no page operation (R98). -/
def execFormatJobBegin (pfwTogether : Bool) (s : State) : Host.Outcome State Fault Refusal :=
  let t := { s with pfw := s.pfw || pfwTogether }
  if s.mayFormat then .next t.beginFormat else .next t

end Sys2Proof.Machine
end

