-- ==== Sys2Proof/Machine/Operands.lean ====
section
/-!
DEFINITION. The argument bytes of requests as values: record, window and area numbers, the expected-version field, the
choice codes of Table 42 and a window definition (R171). None means BAD_ARG by the owning rule.
-/

namespace Sys2Proof.Machine

/-- A record argument, 0 to 127 (R11, R13, R41). -/
def recordArg (b : Byte) : Option HostRecord := if h : b.toNat < 128 then some ⟨b.toNat, h⟩ else none

/-- A window argument, 0 to 15 (R107). -/
def windowArg (b : Byte) : Option WindowNo := if h : b.toNat < 16 then some ⟨b.toNat, h⟩ else none

/-- An area argument, 0 to 16 (R139). -/
def areaArg (b : Byte) : Option AreaNo := if h : b.toNat < 17 then some ⟨b.toNat, h⟩ else none

/-- The expected-version field: a presence byte 0x00 for absent, whose two version bytes are disregarded, or 0x01 for
present; any other presence byte is bad (R171). -/
def expectedArg (presence : Byte) (version : Version) : Option (Option Version) :=
  if presence = 0x00 then some none else if presence = 0x01 then some (some version) else none

/-- The scope argument of SCAN (Table 42). -/
def scopeArg (b : Byte) : Option ScanScope :=
  if b = 0x00 then some .area else if b = 0x01 then some .all else none

/-- The direction argument of SCAN (Table 42). -/
def directionArg (b : Byte) : Option ScanDirection :=
  if b = 0x00 then some .up else if b = 0x01 then some .down else none

/-- The wait argument of LEASE (Table 42). -/
def waitArg (b : Byte) : Option Bool := if b = 0x00 then some false else if b = 0x01 then some true else none

/-- The policy and lease-time arguments of DEFINE_WINDOW: a time from 1 to 255 for LEASED, 0 for OPEN and FROZEN (R118,
R171). -/
def policyArg (policy leaseTime : Byte) : Option Policy :=
  if policy = 0x00 then if leaseTime = 0 then some .openWrite else none
  else if policy = 0x01 then if leaseTime = 0 then none else some (.leased leaseTime.toNat)
  else if policy = 0x02 then if leaseTime = 0 then some .frozen else none
  else none

/-- The definition that the arguments of DEFINE_WINDOW give, if they are within the ranges of R101 (R118). -/
def definitionArg (base size policy leaseTime : Byte) : Option WindowDef :=
  match policyArg policy leaseTime with
  | some c => if (WindowDef.mk base.toNat size.toNat c).inRange then some ⟨base.toNat, size.toNat, c⟩ else none
  | none => none

end Sys2Proof.Machine
end

