-- ==== Sys2Proof/Machine/Layouts.lean ====
section
/-!
DEFINITION. DEFINE_WINDOW and CLEAR_WINDOW: they queue a layout commit.
-/

namespace Sys2Proof.Machine

/-- DEFINE_WINDOW (R118): the argument checks, the store state, the transaction state, and FROZEN for the service port
alone; then the submission. -/
def defineBody (p : Port) (window base size policy leaseTime : Byte) (s : State) : State × ResultHolder :=
  match windowArg window, definitionArg base size policy leaseTime with
  | some w, some d =>
    match s.store.writeGate with
    | some st => (s, plain st)
    | none =>
      if (s.port p).txn ≠ .none then (s, plain .state)
      else if d.policy = .frozen ∧ (s.port p).service = false then (s, plain .notService)
      else s.submit p (.define w d)
  | _, _ => (s, plain .badArg)

/-- DEFINE_WINDOW (R118). -/
def execDefineWindow (p : Port) (window base size policy leaseTime : Byte) (s : State) :
    Host.Outcome State Fault Refusal :=
  serve p 7 (defineBody p window base size policy leaseTime) s

/-- CLEAR_WINDOW (R119). -/
def clearBody (p : Port) (window : Byte) (s : State) : State × ResultHolder :=
  match windowArg window with
  | none => (s, plain .badArg)
  | some w =>
    match s.store.writeGate with
    | some st => (s, plain st)
    | none =>
      if (s.port p).txn ≠ .none then (s, plain .state)
      else if (s.windows.get w).isNone then (s, plain .noWindow)
      else s.submit p (.clear w)

/-- CLEAR_WINDOW (R119). -/
def execClearWindow (p : Port) (window : Byte) (s : State) : Host.Outcome State Fault Refusal :=
  serve p 3 (clearBody p window) s

end Sys2Proof.Machine
end

