-- ==== Sys2Proof/Machine/Leases.lean ====
section
/-!
DEFINITION. The lease requests LEASE, RENEW, RELEASE and BREAK, and the tick and expiry of lease timers.
-/

namespace Sys2Proof.Machine

/-- The checks common to the lease requests: the window number, the store state, and then `body` (R107 to R110). -/
def leaseRequest (window : Byte) (body : WindowNo → State → State × ResultHolder) (s : State) : State × ResultHolder :=
  match windowArg window with
  | none => (s, plain .badArg)
  | some w =>
    match s.store.readGate with
    | some st => (s, plain st)
    | none => body w s

/-- The place of a port on a wait list, from 1. -/
def placeOf (p : Port) (waiters : List Port) : Nat := waiters.idxOf p + 1

/-- The wait list with the port at its tail, unless it is already on it (R107). -/
def joinWait (p : Port) (waiters : List Port) : List Port := if p ∈ waiters then waiters else waiters ++ [p]

/-- LEASE on a LEASED window with lease time `ticks` (R107). -/
def grantBody (p : Port) (wait : Bool) (w : WindowNo) (ticks : Nat) (s : State) : State × ResultHolder :=
  let l := s.lease w
  match l.held with
  | none => (s.setLease w { l with held := some ⟨p, s.leaseTime w, false⟩ }, .result .granted [byteOf ticks])
  | some h =>
    if h.port = p then
      (if h.frozen then s else s.loadTimer w, .result .granted [byteOf ticks])
    else if wait then
      (s.setLease w { l with waiters := joinWait p l.waiters },
        .result .waiting [byteOf (placeOf p (joinWait p l.waiters))])
    else (s, plain .held)

/-- LEASE (R107). -/
def leaseBody (p : Port) (window wait : Byte) (s : State) : State × ResultHolder :=
  match waitArg wait with
  | none => (s, plain .badArg)
  | some yes =>
    leaseRequest window
      (fun w s =>
        match s.windows.get w with
        | none => (s, plain .noWindow)
        | some d =>
          match d.policy with
          | .leased t => grantBody p yes w t s
          | .openWrite => (s, plain .policy)
          | .frozen => (s, plain .policy))
      s

/-- LEASE (R107). -/
def execLease (p : Port) (window wait : Byte) (s : State) : Host.Outcome State Fault Refusal :=
  serve p 4 (leaseBody p window wait) s

/-- RENEW (R108). -/
def renewBody (p : Port) (window : Byte) (s : State) : State × ResultHolder :=
  leaseRequest window
    (fun w s =>
      if (s.windows.get w).isNone then (s, plain .noWindow)
      else match (s.lease w).held with
        | some h =>
          if h.port = p then (if h.frozen then s else s.loadTimer w, plain .ok) else (s, plain .notHolder)
        | none => (s, plain .notHolder))
    s

/-- RENEW (R108). -/
def execRenew (p : Port) (window : Byte) (s : State) : Host.Outcome State Fault Refusal :=
  serve p 3 (renewBody p window) s

/-- RELEASE (R109): by the holder, by a waiter, or by neither. -/
def releaseBody (p : Port) (window : Byte) (s : State) : State × ResultHolder :=
  leaseRequest window
    (fun w s =>
      if (s.windows.get w).isNone then (s, plain .noWindow)
      else if s.holds p w then
        if s.pendingCommit p w then (s, plain .pendingCommit) else (s.passOn w, plain .ok)
      else if p ∈ (s.lease w).waiters then
        (s.setLease w { s.lease w with waiters := (s.lease w).waiters.filter fun q => q != p }, plain .ok)
      else (s, plain .notHolder))
    s

/-- RELEASE (R109). -/
def execRelease (p : Port) (window : Byte) (s : State) : Host.Outcome State Fault Refusal :=
  serve p 3 (releaseBody p window) s

/-- BREAK (R110). -/
def breakBody (p : Port) (window : Byte) (s : State) : State × ResultHolder :=
  leaseRequest window
    (fun w s =>
      if (s.port p).service = false then (s, plain .notService)
      else if (s.windows.get w).isNone then (s, plain .noWindow)
      else match (s.lease w).held with
        | none => (s, plain .notHeld)
        | some h =>
          if s.pendingCommit h.port w then (s, plain .pendingCommit)
          else ((s.notify h.port (.leaseRevoked w)).passOn w, plain .ok))
    s

/-- BREAK (R110). -/
def execBreak (p : Port) (window : Byte) (s : State) : Host.Outcome State Fault Refusal :=
  serve p 3 (breakBody p window) s

/-- LEASE_TICK (R105, R114): every held window whose timer is not frozen is lowered by 1, in increasing order of window
number, and expires at 0. The timebase does not run in device reset. -/
def execLeaseTick (s : State) : Host.Outcome State Fault Refusal := if s.inReset then .next s else .next s.tick

/-- The next tick brings the timer of window `w` to 0: it is held, not frozen, and at 1. -/
def State.expiryDue (s : State) (w : WindowNo) : Bool :=
  match (s.lease w).held with
  | some h => !h.frozen && decide (h.timer ≤ 1)
  | none => false

/-- LEASE_EXPIRY (R105, R114): the tick that brings the timer of window `w` to 0. A tick is one event, so every window that
it brings to 0 expires in it, in increasing order of window number (log entry 9). -/
def execLeaseExpiry (w : WindowNo) (s : State) : Host.Outcome State Fault Refusal :=
  if s.inReset = false ∧ s.expiryDue w then .next s.tick else .next s

end Sys2Proof.Machine
end

