-- ==== Sys2Proof/Machine/ScanOps.lean ====
section
/-!
DEFINITION. Scan cursors: setting one up (R13), stepping through its range (R14) and choosing the next block (R15 to
R18).
-/

namespace Sys2Proof.Machine

/-- The range of a scan, fixed when the SCAN is executed: all records, or those of the start record's area (R13). -/
def scanRange (l : Layout) (scope : ScanScope) (start : HostRecord) : List HostRecord :=
  match scope with
  | .all => hostRecords
  | .area => hostRecords.filter fun r => areaOf l r == areaOf l start

/-- One lap round the range from a record, in the direction of the scan (R14). -/
def scanLap (range : List HostRecord) (direction : ScanDirection) (start : HostRecord) : List HostRecord :=
  match direction with
  | .up => (range.filter fun r => start ≤ r) ++ range.filter fun r => r < start
  | .down => (range.filter fun r => r ≤ start).reverse ++ (range.filter fun r => start < r).reverse

/-- The record after `r` in the range (R14). -/
def scanAfter (range : List HostRecord) (direction : ScanDirection) (r : HostRecord) : HostRecord :=
  ((scanLap range direction r).drop 1).headD r

/-- The cursor that an accepted SCAN sets up (R13). -/
def newCursor (l : Layout) (scope : ScanScope) (direction : ScanDirection) (start : HostRecord) : ScanCursor :=
  let range := scanRange l scope start
  ⟨scope, direction, start, range, start, range.length, none⟩

/-- The first record of a list whose entry is not UNWRITTEN, with its place from `j` on (R15). -/
def State.firstWritten (s : State) (j : Nat) : List HostRecord → Option (HostRecord × Nat)
  | [] => none
  | r :: rest => if s.record (tableNo r) = .unwritten then s.firstWritten (j + 1) rest else some (r, j)

/-- The search of R15: from next in the cursor's direction, examining at most `remaining` positions. -/
def State.searchBlock (s : State) (c : ScanCursor) : Option (HostRecord × Nat) :=
  s.firstWritten 0 ((scanLap c.range c.direction c.next).take c.remaining)

/-- The next block of a scan stream, chosen and taken at its first byte, and the cursor then: a record block, or the end
block, with LAP set when no position is left (R15, R16, R18). -/
def State.takeBlock (s : State) (c : ScanCursor) : Slot × ScanCursor :=
  match c.endReason with
  | some e => (.scanEnd (endBlock e), c)
  | none =>
    match s.searchBlock c with
    | some f => (.scanRecord f.1 f.2 (withCheck (s.recordBytes f.1)), c)
    | none => (.scanEnd (endBlock .lap), { c with endReason := some .lap })

/-- The cursor after a record block found `steps` positions past next is delivered (R15). -/
def ScanCursor.delivered (c : ScanCursor) (r : HostRecord) (steps : Nat) : ScanCursor :=
  { c with next := scanAfter c.range c.direction r, remaining := c.remaining - (steps + 1) }

end Sys2Proof.Machine
end

