-- ==== Sys2Proof/Machine/LinkOps.lean ====
section
/-!
DEFINITION. The Frame Controller of a port: starts, received bytes, the judging at a stop, truncation and the frame
timeout (R143 to R148), and the bytes of response frames with the host's acknowledges (R150 to R153). During device reset
the controllers take part in no transfer (R82).
-/

namespace Sys2Proof.Machine

/-- The BAD_FRAME result with a sub-reason (R172). -/
def badFrameResult (subReason : Byte) : ResultHolder := .result .badFrame [subReason]

/-- The controller of port `p` set, and nothing else. -/
def PortState.withController (c : PortState) (k : Controller) : PortState := { c with controller := k }

/-! ## Sending (R150 to R153) -/

/-- The byte of a slot at a position; filler follows the bytes of a held result (R150). -/
def Slot.byteAt (slot : Slot) (position : Nat) : Byte :=
  match slot with
  | .held content => content.getD position 0xFF
  | .scanStatus => scanStatusCode
  | .scanRecord _ _ content => content.getD position 0xFF
  | .scanEnd content => content.getD position 0xFF
  | .notice content => content.getD position 0xFF
  | .noticeEnd content => content.getD position 0xFF
  | .notTaken => 0xFF

/-- The port begins to send a slot: its first byte goes out (R152, R153). -/
def PortState.beginSlot (c : PortState) (channel : Channel) (slot : Slot) : PortState :=
  { c with
    controller := .response ⟨channel, slot, 0, 0⟩
    line := { c.line with sent := c.line.sent ++ [slot.byteAt 0] } }

/-- The port begins the next scan block or notice slot, chosen at this event (R15, R134). -/
def State.beginNext (s : State) (channel : Channel) (c : PortState) : PortState :=
  match channel with
  | .result =>
    match c.holder with
    | .scan cursor =>
      let b := s.takeBlock cursor
      ({ c with holder := .scan b.2 }).beginSlot .result b.1
    | .empty => c
    | .result _ _ => c
  | .notice =>
    match c.notices with
    | n :: _ => c.beginSlot .notice (.notice n.slot)
    | [] => c.beginSlot .notice (.noticeEnd endEntrySlot)

/-- A response frame opens on a channel: the lead byte is acknowledged and the first byte goes out (R144, R150, R152,
R153). -/
def State.openResponse (s : State) (channel : Channel) (c : PortState) : PortState :=
  let d := { c with line := ⟨[true], []⟩ }
  match channel with
  | .result =>
    match d.holder with
    | .empty => d.beginSlot .result (.held (resultBytes noResultCode []))
    | .result status payload => d.beginSlot .result (.held (resultBytes status.code payload))
    | .scan _ => d.beginSlot .result .scanStatus
  | .notice => s.beginNext .notice d

/-- The next byte of the slot goes out. -/
def PortState.sendNext (c : PortState) (f : ResponseFrame) : PortState :=
  { c with
    controller := .response { f with position := f.position + 1, timer := 0 }
    line := { c.line with sent := c.line.sent ++ [f.slot.byteAt (f.position + 1)] } }

/-- The host acknowledges the byte being sent, and the part sends the next byte of the frame (R151). The acknowledge of
the check byte of a block or a slot is a command of its own and is not taken here. -/
def State.ackByte (s : State) (c : PortState) : PortState :=
  match c.controller with
  | .response f =>
    match f.slot with
    | .held _ => c.sendNext f
    | .scanStatus => s.beginNext .result c
    | .scanRecord _ _ content => if f.position + 1 < content.length then c.sendNext f else c
    | .scanEnd content => if f.position + 1 < content.length then c.sendNext f else c
    | .notice content => if f.position + 1 < content.length then c.sendNext f else c
    | .noticeEnd content => if f.position + 1 < content.length then c.sendNext f else c
    | .notTaken => c
  | .idle => c
  | .request _ => c

/-- The host acknowledges `n` bytes in turn. -/
def State.ackBytes (s : State) (n : Nat) (c : PortState) : PortState :=
  match n with
  | 0 => c
  | m + 1 => s.ackBytes m (s.ackByte c)

/-- In an open frame whose next slot is not taken, its first byte goes out (R15, R134). -/
def State.goOn (s : State) (c : PortState) : PortState :=
  match c.controller with
  | .response f => if f.slot = .notTaken then s.beginNext f.channel c else c
  | .idle => c
  | .request _ => c

/-! ## Deliveries (R15, R18, R134) -/

/-- The last byte of a block or slot, its check byte, is being sent. -/
def ResponseFrame.atCheck (f : ResponseFrame) (content : List Byte) : Bool := f.position + 1 == content.length

/-- The frame goes on after a delivery: the next slot is taken at once, or is yet to be taken. -/
def State.afterDelivery (s : State) (channel : Channel) (goesOn : Bool) (c : PortState) : PortState :=
  let d := { c with controller := .response ⟨channel, .notTaken, 0, 0⟩ }
  if goesOn then s.goOn d else d

/-- The host acknowledges the check byte of a scan block (R15, R18). -/
def State.deliverBlock (s : State) (goesOn : Bool) (c : PortState) : PortState :=
  match c.controller, c.holder with
  | .response f, .scan cursor =>
    match f.slot with
    | .scanRecord r steps content =>
      if f.atCheck content then
        s.afterDelivery .result goesOn { c with holder := .scan (cursor.delivered r steps) }
      else c
    | .scanEnd content => if f.atCheck content then s.afterDelivery .result goesOn c else c
    | _ => c
  | _, _ => c

/-- The host acknowledges the check byte of a notice slot: the head entry is removed; a delivered end entry removes
nothing (R134). -/
def State.deliverNotice (s : State) (goesOn : Bool) (c : PortState) : PortState :=
  match c.controller with
  | .response f =>
    match f.slot with
    | .notice content =>
      if f.atCheck content then s.afterDelivery .notice goesOn { c with notices := c.notices.drop 1 } else c
    | .noticeEnd content => if f.atCheck content then s.afterDelivery .notice goesOn c else c
    | _ => c
  | _ => c

/-- The host acknowledges the byte being sent, whichever it is, and goes on (R151): the check byte of a block or a slot is
delivered, and the next byte of the frame goes out. -/
def State.hostAck (s : State) (c : PortState) : PortState :=
  match c.controller with
  | .response f =>
    match f.slot with
    | .scanRecord _ _ content => if f.atCheck content then s.deliverBlock true c else s.ackByte c
    | .scanEnd content => if f.atCheck content then s.deliverBlock true c else s.ackByte c
    | .notice content => if f.atCheck content then s.deliverNotice true c else s.ackByte c
    | .noticeEnd content => if f.atCheck content then s.deliverNotice true c else s.ackByte c
    | .held _ => s.ackByte c
    | .scanStatus => s.ackByte c
    | .notTaken => c
  | .idle => c
  | .request _ => c

/-! ## Receiving (R143 to R148) -/

/-- A start or a repeated start: the open frame ends, a request frame with a complete lead byte as TRUNCATED, and a new
frame opens in REQUEST (R144, R147, R151). -/
def PortState.linkStart (c : PortState) : PortState :=
  match c.controller with
  | .request f =>
    match f.lead with
    | some _ => { c with controller := .request .start, holder := badFrameResult subReasonTruncated }
    | none => { c with controller := .request .start }
  | .idle => { c with controller := .request .start }
  | .response _ => { c with controller := .request .start }

/-- A frame with no lead byte is open after this: the one that a repeated start left open, or a new one. -/
def PortState.openFrame (c : PortState) : PortState :=
  match c.controller with
  | .request f =>
    match f.lead with
    | none => c
    | some _ => c.linkStart
  | .idle => c.linkStart
  | .response _ => c.linkStart

/-- The first complete byte of a frame decides it (R144). -/
def State.leadByte (s : State) (b : Byte) (c : PortState) : PortState :=
  if b.msb = false then
    { c with controller := .request (.withLead b), line := ⟨[true], []⟩ }
  else if badLead b then { c with controller := .idle, line := ⟨[false], []⟩ }
  else s.openResponse (if b.getLsbD 0 then .notice else .result) c

/-- One complete byte from the host (R144, R145). In IDLE it passes unheeded (R143). -/
def State.linkByte (s : State) (c : PortState) (b : Byte) : PortState :=
  match c.controller with
  | .request f =>
    match f.lead with
    | none => s.leadByte b c
    | some lead =>
      let r := f.take lead b
      { c with controller := .request r.1, line := { c.line with acks := c.line.acks ++ [r.2] } }
  | .idle => c
  | .response _ => c

/-- One complete byte of a frame and its acknowledge bit (R142, R144, R145, R151). The part receives it in REQUEST. In
RESPONSE it is a byte that the part sends: a low acknowledge is the host's, a high one ends the frame, and without one the
byte is not acknowledged. -/
def State.linkNinth (s : State) (c : PortState) (x : Byte × Option Bool) : PortState :=
  match c.controller with
  | .request _ => s.linkByte c x.1
  | .response _ =>
    match x.2 with
    | some false => s.hostAck c
    | some true => { c with controller := .idle }
    | none => c
  | .idle => c

/-- The bits of a frame: their complete bytes in turn, with their acknowledge bits (R142). -/
def State.linkBits (s : State) (bits : List Bool) (c : PortState) : PortState := (ninths bits).foldl s.linkNinth c

/-- The result that a frame which is not good leaves (R146). -/
def FrameVerdict.result : FrameVerdict → Option ResultHolder
  | .noRequest => none
  | .unknown => some (plain .unknown)
  | .badLength => some (badFrameResult subReasonLength)
  | .badCheck => some (badFrameResult subReasonCheck)
  | .good _ _ => none

/-- The stop of a frame that is not good, or that has no lead byte (R146, R144, R151). -/
def PortState.linkStop (c : PortState) : PortState :=
  match c.controller with
  | .request f =>
    match f.judge.result with
    | some r => { c with controller := .idle, holder := r }
    | none => { c with controller := .idle }
  | .idle => c
  | .response _ => { c with controller := .idle }

/-- The frame timer runs for `ms` milliseconds without an edge; it runs only in REQUEST and RESPONSE (R143). -/
def PortState.timerRuns (ms : Nat) (c : PortState) : PortState :=
  match c.controller with
  | .request f => { c with controller := .request { f with timer := f.timer + ms } }
  | .response f => { c with controller := .response { f with timer := f.timer + ms } }
  | .idle => c

/-- The expiry of the frame timer: a request frame with a complete lead byte is truncated, a response frame is cut short,
and the controller is IDLE (R147, R148, R151). -/
def PortState.timeout (c : PortState) : PortState :=
  match c.controller with
  | .request f =>
    if Config.frameTimeoutMs ≤ f.timer then
      match f.lead with
      | some _ => { c with controller := .idle, holder := badFrameResult subReasonTruncated }
      | none => { c with controller := .idle }
    else c
  | .response f => if Config.frameTimeoutMs ≤ f.timer then { c with controller := .idle } else c
  | .idle => c

/-- What the host does in a response frame on a channel (R150 to R153). Acts in a frame that is not open on that channel
pass unheeded (R143, log entry 10). -/
def State.respond (s : State) (channel : Channel) (lead : Byte) (act : ResponseAct) (c : PortState) : PortState :=
  match act with
  | .opens n => s.ackBytes n (s.leadByte lead c.openFrame)
  | .goesOn n =>
    match c.controller with
    | .response f => if f.channel = channel then s.ackBytes n (s.goOn c) else c
    | .idle => c
    | .request _ => c
  | .notAck | .stop =>
    match c.controller with
    | .response f => if f.channel = channel then { c with controller := .idle } else c
    | .idle => c
    | .request _ => c
  | .repeatedStart =>
    match c.controller with
    | .response f => if f.channel = channel then c.linkStart else c
    | .idle => c
    | .request _ => c

/-- A link event at port `p`: what it does to the port. In device reset it passes unheeded (R82). -/
def State.atLink (s : State) (p : Port) (f : State → PortState → PortState) : State :=
  if s.inReset then s else s.onPort p (f s)

end Sys2Proof.Machine
end

