-- ==== Sys2Proof/Machine/Wires.lean ====
section
/-!
DEFINITION. The two lines of a link port as levels (R141): the open-drain data line, what the part does to it, what a
change of levels is, and the reading of one frame from the levels that its host drives. True is high, or released.
-/

namespace Sys2Proof.Machine

/-- The data line is high when neither end pulls it low (R141). -/
def openDrain (host part : Bool) : Bool := host && part

/-- What the lines do from one pair of levels to the next, LDAn taken as the level of the line. -/
inductive LinkEvent where
  /-- A fall of LDAn while LCKn is high. -/
  | start
  /-- A rise of LDAn while LCKn is high. -/
  | stop
  /-- A rising edge of LCKn: the level of LDAn is one bit. -/
  | bit (level : Bool)
  /-- A falling edge of LCKn: the next bit is put on the line. -/
  | fall
  /-- LCKn stays low, or nothing changes. -/
  | quiet
  deriving DecidableEq, Repr

/-- The event between two pairs of levels (R141). -/
def linkEvent (old new : LinkLevels) : LinkEvent :=
  match old.clock, new.clock with
  | true, true => if old.data && !new.data then .start else if !old.data && new.data then .stop else .quiet
  | false, true => .bit new.data
  | true, false => .fall
  | false, false => .quiet

/-- What the part does to LDAn for the bit that follows `taken` bits of the byte under way, in a frame whose lead byte is
that byte if `lead` is set (R141, R142): it pulls low for the acknowledge of a byte that it received and accepted, and for
the 0 bits of a byte that it sends. -/
def PortState.drives (c : PortState) (lead : Bool) (taken : Nat) : Bool :=
  match c.controller with
  | .request _ => if taken = 8 then !(c.line.acks.getLastD false) else true
  | .response f => if taken = 8 then !lead else (f.slot.byteAt f.position).getLsbD (7 - taken)
  | .idle => true

/-- What the part does to LDAn after these bits of the frame that is open at the port `c`. -/
def State.drivesAfter (s : State) (c : PortState) (bits : List Bool) : Bool :=
  (s.linkBits bits c).drives (decide (bits.length ≤ 8)) (bits.length % 9)

/-- How a frame stands when the levels end. -/
inductive FrameEnd where
  /-- The frame is open. -/
  | unended
  /-- A stop ended it. -/
  | stopped
  /-- A repeated start ended it, and a new frame is open. -/
  | restarted
  deriving DecidableEq, Repr

/-- A frame as it is read from the levels: the levels of the lines now, what the part does to LDAn, whether the frame's own
start has come, and the bits taken since. Before it, `bits` are those of the frame that was open until then. -/
structure LinkReading where
  line : LinkLevels
  part : Bool
  opened : Bool
  bits : List Bool
  deriving DecidableEq, Repr

/-- The bits before a frame's start: an IDLE controller ignores them (R143); in a frame that is open they are bits of a byte
that the start discards (R142), and a byte that they complete is no part of this reading. -/
def earlierBits (c : PortState) (bits : List Bool) : Option (List Bool) :=
  if c.controller = .idle then some [] else if bits.length < 8 then some bits else none

/-- The bits of a frame that a start or a stop ends: one that comes during an acknowledge bit leaves that byte not
acknowledged, so the bit does not count (R142). -/
def bitsAtEnd (bits : List Bool) : List Bool := if bits.length % 9 = 0 then bits.dropLast else bits

/-- Reads the levels that follow. The start opens the frame; each rising edge gives a bit; a stop or a repeated start is the
last event of the frame. A repeated start before its first bit begins the frame again (R144). -/
def State.readLevels (s : State) (c : PortState) (r : LinkReading) : List LinkLevels → Option (List Bool × FrameEnd)
  | [] => if r.opened then some (r.bits, .unended) else none
  | l :: rest =>
    let line : LinkLevels := ⟨l.clock, openDrain l.data r.part⟩
    match linkEvent r.line line with
    | .start =>
      if r.opened && !r.bits.isEmpty then if rest.isEmpty then some (bitsAtEnd r.bits, .restarted) else none
      else s.readLevels c ⟨line, r.part, true, []⟩ rest
    | .stop =>
      if r.opened then if rest.isEmpty then some (bitsAtEnd r.bits, .stopped) else none
      else if c.controller = .idle then s.readLevels c { r with line := line } rest
      else none
    | .bit b =>
      if r.opened then s.readLevels c { r with line := line, bits := r.bits ++ [b] } rest
      else match earlierBits c (r.bits ++ [b]) with
        | some bits => s.readLevels c { r with line := line, bits := bits } rest
        | none => none
    | .fall =>
      let part := if r.opened then s.drivesAfter c.openFrame r.bits else c.drives false r.bits.length
      s.readLevels c ⟨⟨l.clock, openDrain l.data part⟩, part, r.opened, r.bits⟩ rest
    | .quiet => s.readLevels c { r with line := line } rest

/-- A frame with no lead byte is open: the one that a repeated start opened (R144). -/
def PortState.frameOpen (c : PortState) : Bool :=
  match c.controller with
  | .request f => f.lead.isNone
  | .idle => false
  | .response _ => false

/-- The frame that these levels of the host spell at the port `c`: the bits that the part takes, and how the frame ends; none
where they spell no frame or more than one. The first levels are those at which the lines stand. -/
def State.readFrame (s : State) (c : PortState) : List LinkLevels → Option (List Bool × FrameEnd)
  | [] => none
  | l :: rest =>
    s.readLevels c ⟨⟨l.clock, openDrain l.data (c.drives false 0)⟩, c.drives false 0, c.frameOpen, []⟩ rest

/-! ## Levels that spell a frame -/

/-- The levels of one bit as a host drives them: the data line is set while LCKn is low and holds while it is high. -/
def bitLevels (b : Bool) : List LinkLevels := [⟨false, b⟩, ⟨true, b⟩]

/-- The levels of a host that sends these bits from idle lines, with a start before them, and ends the frame so. -/
def frameLevels (bits : List Bool) (ending : FrameEnd) : List LinkLevels :=
  [⟨true, true⟩, ⟨true, false⟩] ++ bits.flatMap bitLevels ++
    match ending with
    | .unended => []
    | .stopped => [⟨false, false⟩, ⟨true, false⟩, ⟨true, true⟩]
    | .restarted => [⟨false, true⟩, ⟨true, true⟩, ⟨true, false⟩]

end Sys2Proof.Machine
end

