-- ==== Sys2Proof/Machine/Links.lean ====
section
/-!
DEFINITION. The link events: frames that are not executed, and response frames.
-/

namespace Sys2Proof.Machine

/-- The bits of the frame that the levels spell, if it ends so. -/
def State.frameBits (s : State) (c : PortState) (wave : List LinkLevels) (ending : FrameEnd) : Option (List Bool) :=
  match s.readFrame c wave with
  | some x => if x.2 = ending then some x.1 else none
  | none => none

/-- BAD_FRAME (R146): the frame of these bits, stopped. A frame that is good is no such event and changes nothing: its
stop is the request's own command (log entry 25). -/
def State.badFrameAt (s : State) (bits : List Bool) (c : PortState) : PortState :=
  let d := s.linkBits bits c.openFrame
  match d.controller with
  | .request f =>
    match f.judge with
    | .good _ _ => c
    | .noRequest | .unknown | .badLength | .badCheck => d.linkStop
  | .idle => d.linkStop
  | .response _ => d.linkStop

/-- BAD_FRAME (R146): the levels spell a frame that ends with a stop. Other levels are no such event (log entry 10). -/
def execBadFrame (p : Port) (wave : List LinkLevels) (s : State) : Host.Outcome State Fault Refusal :=
  .next (s.atLink p fun s c => match s.frameBits c wave .stopped with
    | some bits => s.badFrameAt bits c
    | none => c)

/-- TRUNCATED (R147): the levels spell a frame that a repeated start ends, which opens a new frame. Other levels are no such
event (log entry 10). -/
def execTruncated (p : Port) (wave : List LinkLevels) (s : State) : Host.Outcome State Fault Refusal :=
  .next (s.atLink p fun s c => match s.frameBits c wave .restarted with
    | some bits => (s.linkBits bits c.openFrame).linkStart
    | none => c)

/-- 25 ms pass without an edge in the frame that is open (R148). -/
def PortState.timeRunsOut (c : PortState) : PortState := (c.timerRuns Config.frameTimeoutMs).timeout

/-- FRAME_TIMEOUT (R148): 25 ms pass without an edge, in the frame that is open, or in the frame that the levels begin.
Levels that spell no open frame are no such event (log entry 10). -/
def State.timeoutAt (s : State) (wave : List LinkLevels) (c : PortState) : PortState :=
  if wave.isEmpty then c.timeRunsOut
  else match s.frameBits c wave .unended with
    | some bits => (s.linkBits bits c.openFrame).timeRunsOut
    | none => c

/-- FRAME_TIMEOUT (R148). -/
def execFrameTimeout (p : Port) (wave : List LinkLevels) (s : State) : Host.Outcome State Fault Refusal :=
  .next (s.atLink p fun s c => s.timeoutAt wave c)

/-- BAD_LEAD_BYTE (R144): the lead byte is not acknowledged and the controller returns to IDLE. Any other lead byte is no
such event and changes nothing. -/
def execBadLeadByte (p : Port) (lead : Byte) (s : State) : Host.Outcome State Fault Refusal :=
  .next (s.atLink p fun s c => if badLead lead then s.leadByte lead c.openFrame else c)

/-- RESULT_FRAME (R150, R151, R152). -/
def execResultFrame (p : Port) (act : ResponseAct) (s : State) : Host.Outcome State Fault Refusal :=
  .next (s.atLink p fun s c => s.respond .result 0x80 act c)

/-- SCAN_BLOCK_DELIVERED (R15, R18). -/
def execScanBlockDelivered (p : Port) (goesOn : Bool) (s : State) : Host.Outcome State Fault Refusal :=
  .next (s.atLink p fun s c => s.deliverBlock goesOn c)

/-- NOTICE_FRAME (R153, R134). -/
def execNoticeFrame (p : Port) (act : ResponseAct) (s : State) : Host.Outcome State Fault Refusal :=
  .next (s.atLink p fun s c => s.respond .notice 0x81 act c)

/-- NOTICE_ENTRY_DELIVERED (R134). -/
def execNoticeEntryDelivered (p : Port) (goesOn : Bool) (s : State) : Host.Outcome State Fault Refusal :=
  .next (s.atLink p fun s c => s.deliverNotice goesOn c)

end Sys2Proof.Machine
end

