-- ==== Sys2Proof/Machine/Flags.lean ====
section
/-!
DEFINITION. What STATUS and WINDOWS report: the flags byte, the page counts, and the payloads of Tables 41 and 43.
-/

namespace Sys2Proof.Machine

/-- The flags byte of STATUS: bit 0 recovered, bit 1 HOLD, bit 2 the port's service flag (R173). -/
def State.flagsByte (s : State) (p : Port) : Byte :=
  BitVec.ofNat 8 (s.recovered.toNat + 2 * s.hold.toNat + 4 * (s.port p).service.toNat)

/-- The page counts in the order of Table 43: CLEAN, PENDING, LIVE, RETAINED, STALE, BAD. -/
def State.pageCounts (s : State) : List Nat :=
  [s.cleanCount, s.pages.count PageEntry.isPending, s.pages.count PageEntry.isLive,
    s.pages.count PageEntry.isRetained, s.pages.count PageEntry.isStale, s.pages.count PageEntry.isBad]

/-- The staged count: 0 in NONE, else the number of entries of the list or commit (R169). -/
def PortState.stagedCount (c : PortState) : Nat :=
  match c.txn with
  | .none => 0
  | .opened => c.staging.count
  | .queued => c.staging.count
  | .running => c.staging.count

/-- The payload of STATUS at port `p` (Table 43). -/
def State.statusPayload (s : State) (p : Port) : List Byte :=
  let c := s.port p
  [s.store.code, s.store.reasonCode, s.flagsByte p, s.job.code, c.txn.code, byteOf c.stagedCount]
    ++ c.lastOutcome.bytes ++ s.pageCounts.flatMap be16Of ++ be32 s.nextSequence ++ [byteOf s.queue.length]

/-- One window in the payload of WINDOWS (Table 41). -/
def windowBytes (w : WindowNo) (d : WindowDef) : List Byte :=
  [byteOf w.val, byteOf d.base, byteOf d.size, d.policy.code, byteOf d.policy.ticks]

/-- The sequence of the layout record, 0xFFFFFFFF while it is UNWRITTEN (R124). -/
def State.layoutSequence (s : State) : Sequence :=
  ((s.record Config.layoutRecord).backing.map Prod.snd).getD 0xFFFFFFFF

/-- The windows that are defined, in increasing order of window number. -/
def definedWindows (l : Layout) : List WindowNo := allWindows.filter fun w => (l.get w).isSome

/-- The payload of WINDOWS (R124, Table 41). -/
def State.windowsPayload (s : State) : List Byte :=
  be16 (s.record Config.layoutRecord).version ++ be32 s.layoutSequence
    ++ byteOf (definedWindows s.windows).length
      :: allWindows.flatMap fun w => ((s.windows.get w).map (windowBytes w)).getD []

/-- The watch set as WATCH and UNWATCH report it: area numbers in increasing order (R139). -/
def watchBytes (watch : Table Bool 17) : List Byte :=
  (allAreas.filter fun a => watch.get a).map fun a => byteOf a.val

end Sys2Proof.Machine
end

