-- ==== Sys2Proof/Machine/Reports.lean ====
section
/-!
DEFINITION. The requests that report: STATUS, READ, SCAN and WINDOWS.
-/

namespace Sys2Proof.Machine

/-- STATUS (R169, R173). -/
def execStatus (p : Port) (s : State) : Host.Outcome State Fault Refusal :=
  serve p 2 (fun s => (s, .result .ok (s.statusPayload p))) s

/-- READ (R11, R12). -/
def readBody (record : Byte) (s : State) : State × ResultHolder :=
  match recordArg record with
  | none => (s, plain .badArg)
  | some r =>
    match s.store.readGate with
    | some st => (s, plain st)
    | none => (s, .result .ok (s.recordBytes r))

/-- READ (R11, R12). -/
def execRead (p : Port) (record : Byte) (s : State) : Host.Outcome State Fault Refusal :=
  serve p 3 (readBody record) s

/-- SCAN (R13): the checks, and the cursor in the result holder. -/
def scanBody (start scope direction : Byte) (s : State) : State × ResultHolder :=
  match recordArg start, scopeArg scope, directionArg direction with
  | some r, some sc, some d =>
    match s.store.readGate with
    | some st => (s, plain st)
    | none => (s, .scan (newCursor s.windows sc d r))
  | _, _, _ => (s, plain .badArg)

/-- SCAN (R13). -/
def execScan (p : Port) (start scope direction : Byte) (s : State) : Host.Outcome State Fault Refusal :=
  serve p 5 (scanBody start scope direction) s

/-- WINDOWS (R124). -/
def windowsBody (s : State) : State × ResultHolder :=
  match s.store.readGate with
  | some st => (s, plain st)
  | none => (s, .result .ok s.windowsPayload)

/-- WINDOWS (R124). -/
def execWindows (p : Port) (s : State) : Host.Outcome State Fault Refusal := serve p 2 windowsBody s

end Sys2Proof.Machine
end

