-- ==== Sys2Proof/Machine/MountOps.lean ====
section
/-!
DEFINITION. The mount (R85 to R92): the verdicts of the pages, the groups by sequence, the current page of each record,
and the tables the mount rebuilds from the verdicts alone. Nothing here changes the array (R85).
-/

namespace Sys2Proof.Machine

/-- The verdicts that the mount gives the pages, each read once (R85). -/
def State.verdicts (s : State) : Table PageVerdict 320 := s.array.map PageContent.verdict

/-- A page with the image its read gave. -/
structure Found where
  page : PageNo
  image : PageImage
  deriving DecidableEq, Repr

/-- The sequence of a found page. -/
def Found.sequence (f : Found) : Sequence := f.image.header.sequence

/-- The image that a verdict hands to the reader: of VALID alone (R21). -/
def PageVerdict.image : PageVerdict → Option PageImage
  | .valid i => some i
  | .blank => none
  | .retired => none
  | .damaged => none

/-- Every page whose verdict is VALID, in page order (R85). -/
def foundPages (verdicts : Table PageVerdict 320) : List Found :=
  allPages.filterMap fun g => (verdicts.get g).image.map fun i => ⟨g, i⟩

/-- The list on a LAYOUT page decodes (R86). Images of other kinds have none to decode. -/
def PageImage.decodes (i : PageImage) : Bool :=
  match i.payload with
  | .layout l => l.valid
  | .bytes _ => true
  | .none => true

/-- A found page of kind EPOCH (R86). -/
def Found.isEpoch (f : Found) : Bool := f.image.header.kind == .epoch

/-- A candidate: a VALID page of kind DATA or TOMBSTONE, or LAYOUT whose list decodes (R86). -/
def Found.isCandidate (f : Found) : Bool := !f.isEpoch && f.image.decodes

/-- The pages of a group hold exactly one page at each position from 1 to `n`. -/
def positionsOnce (group : List Found) (n : Nat) : Bool :=
  (List.range n).all fun k => group.countP (fun f => f.image.header.position == k + 1) == 1

/-- A group is complete (R87): one count n and one relocated flag, exactly one page for each position from 1 to n and no
other page, and distinct record numbers. Where two complete groups could be formed under one sequence, its positions are
held twice and the group is incomplete, as R88 requires (log entry 18). -/
def groupComplete (group : List Found) : Bool :=
  match group with
  | [] => false
  | f :: _ =>
    group.all (fun x => x.image.header.count == f.image.header.count
        && x.image.header.relocated == f.image.header.relocated)
      && group.length == f.image.header.count
      && positionsOnce group f.image.header.count
      && decide (group.map fun x => x.image.header.record).Nodup

/-- The candidates that carry a sequence. -/
def groupOf (candidates : List Found) (q : Sequence) : List Found := candidates.filter fun f => f.sequence == q

/-- The candidates of complete groups. -/
def completeCandidates (candidates : List Found) : List Found :=
  candidates.filter fun f => groupComplete (groupOf candidates f.sequence)

/-- The page of a complete group is LIVE: no complete group of a higher sequence holds its record (R90). -/
def isCurrent (complete : List Found) (f : Found) : Bool :=
  complete.all fun x => x.image.header.record != f.image.header.record || decide (x.sequence.toNat ≤ f.sequence.toNat)

/-- The LIVE pages (R90). -/
def livePages (complete : List Found) : List Found := complete.filter fun f => isCurrent complete f

/-- The pages of complete groups that supply a current record: they become LIVE or RETAINED (R90). -/
def keptPages (complete live : List Found) : List Found :=
  complete.filter fun f => live.any fun x => x.sequence == f.sequence

/-- The directory entry of a page after a mount without an epoch page, given the pages that become LIVE and those of the
groups that are kept (R86, R87, R90). -/
def mountedEntry (live kept : List Found) (g : PageNo) : PageVerdict → PageEntry
  | .blank => .clean
  | .retired => .bad
  | .damaged => .stale
  | .valid i =>
    if live.any fun f => f.page == g then .live i.header
    else if kept.any fun f => f.page == g then .retained i.header
    else .stale

/-- The directory entry of a page after a mount that found an epoch page: every VALID page is STALE (R89). -/
def epochMountedEntry : PageVerdict → PageEntry
  | .blank => .clean
  | .retired => .bad
  | .damaged => .stale
  | .valid _ => .stale

/-- The entry of a record: from its LIVE page, or UNWRITTEN (R10, R91). -/
def mountedRecord (live : List Found) (r : RecordNo) : RecordEntry :=
  match live.find? fun f => f.image.header.record == some r with
  | some f => f.image.entry f.page
  | none => .unwritten

/-- The Window Table: the list of the layout record, or empty (R91). -/
def mountedWindows (records : Table RecordEntry 129) : Layout :=
  match (records.get Config.layoutRecord).payload with
  | .layout l => l
  | .bytes _ => .fill 16 none
  | .none => .fill 16 none

/-- The pages of a group in position order. -/
def inPositionOrder (group : List Found) : List Found :=
  (List.range 8).flatMap fun k => group.filter fun f => f.image.header.position == k + 1

/-- The sequences of some pages, each once, in increasing order (R65). -/
def increasing : List Sequence → List Sequence
  | [] => []
  | q :: rest =>
    let below := increasing rest
    if below.contains q then below
    else (below.takeWhile fun x => x.toNat < q.toNat) ++ q :: below.dropWhile fun x => x.toNat < q.toNat

/-- The Census: one entry for each complete group that supplies a current record (R65, R90). -/
def mountedCensus (complete : List Found) : List CensusEntry :=
  let live := livePages complete
  (increasing (live.map Found.sequence)).map fun q =>
    ⟨q, (inPositionOrder (groupOf complete q)).map fun f => ⟨f.page, live.any fun x => x.page == f.page⟩⟩

/-- Of two found pages, the one the allocation pointer goes by: the higher sequence, then the higher position, then the
higher page number (R25). -/
def laterPage (a b : Found) : Found :=
  if a.sequence.toNat < b.sequence.toNat then b
  else if b.sequence.toNat < a.sequence.toNat then a
  else if a.image.header.position < b.image.header.position then b
  else if b.image.header.position < a.image.header.position then a
  else if a.page < b.page then b
  else a

/-- The last of some found pages in the order of `laterPage`. -/
def latestPage : List Found → Option Found
  | [] => none
  | f :: rest => some (rest.foldl laterPage f)

/-- The allocation pointer after a mount (R25). -/
def mountedPointer (found : List Found) : PageNo :=
  match latestPage found with
  | some f => nextPage f.page
  | none => 0

/-- The next sequence after a mount (R34). -/
def mountedSequence (found : List Found) : Sequence :=
  match latestPage found with
  | some f => f.sequence + 1
  | none => Config.firstSequence

/-- The epoch page: the VALID page of kind EPOCH with the highest sequence (R89, log entry 19). -/
def epochPage (found : List Found) : Option PageNo := (latestPage (found.filter Found.isEpoch)).map Found.page

/-- The verdict is DAMAGED. -/
def PageVerdict.isDamaged : PageVerdict → Bool
  | .damaged => true
  | .blank => false
  | .retired => false
  | .valid _ => false

/-- The mount found something to recover from: a page classified DAMAGED, an incomplete group, or an epoch page (R92). -/
def mountRecovered (verdicts : Table PageVerdict 320) (found : List Found) : Bool :=
  let candidates := found.filter Found.isCandidate
  verdicts.rows.any PageVerdict.isDamaged
    || found.any (fun f => !f.isEpoch && !f.image.decodes)
    || candidates.any (fun f => !groupComplete (groupOf candidates f.sequence))
    || found.any Found.isEpoch

/-- The directory after a mount. -/
def mountedPages (verdicts : Table PageVerdict 320) (complete : List Found) (epoch : Bool) : Table PageEntry 320 :=
  let live := livePages complete
  let kept := keptPages complete live
  Table.build 320 fun g =>
    if epoch then epochMountedEntry (verdicts.get g) else mountedEntry live kept g (verdicts.get g)

/-- The tables as the mount rebuilds them from the verdicts (R89, R90, R91, R92). With an epoch page every record is
UNWRITTEN, and the Window Table and the Census are empty (R89). -/
def State.rebuild (s : State) (verdicts : Table PageVerdict 320) : State :=
  let found := foundPages verdicts
  let epoch := (epochPage found).isSome
  let complete := if epoch then [] else completeCandidates (found.filter Found.isCandidate)
  let pages := mountedPages verdicts complete epoch
  let live := livePages complete
  let records : Table RecordEntry 129 := Table.build 129 (mountedRecord live)
  { s with
    pages := pages
    records := records
    windows := mountedWindows records
    census := mountedCensus complete
    pointer := mountedPointer found
    nextSequence := mountedSequence found
    badCount := pages.count PageEntry.isBad
    recovered := mountRecovered verdicts found }

end Sys2Proof.Machine
end

