-- ==== Sys2Proof/Machine/Resets.lean ====
section
/-!
DEFINITION. DEVICE_RESET, RESET_RELEASE, MOUNT_END, and the power-fail commands PFW_ASSERT, HOLD_TAKES_EFFECT and
PFW_DEASSERT.
-/

namespace Sys2Proof.Machine

/-- What a cut-off program of an image leaves on its page (R84). -/
def cutProgram (cut : CutOff) (i : PageImage) : PageContent :=
  match cut with
  | .blank => .blank
  | .damaged => .damaged
  | .disturbed check => .programmed { i with check := check }
  | .image => .programmed i
  | .retired => .retired

/-- What a cut-off erase leaves on its page, which held `old` (R84). -/
def cutErase (cut : CutOff) (old : PageContent) : PageContent :=
  match cut with
  | .blank => .blank
  | .damaged => .damaged
  | .disturbed _ => .damaged
  | .image => old
  | .retired => .retired

/-- The page of an operation in progress as a device reset leaves it (R82, R84). -/
def State.cutOff (s : State) (cut : CutOff) : State :=
  match s.op with
  | some (.program g i) => s.setArray g (cutProgram cut i)
  | some (.erase g) => s.setArray g (cutErase cut (s.array.get g))
  | none => s

/-- The volatile state is lost (R82) and takes the values of Table 19; the service flags, the pins and the array stay
(R163, R83). -/
def State.loseVolatile (s : State) : State :=
  { s with
    ports := s.ports.map fun c => .reset c.service
    records := .fill 129 .unwritten
    windows := .fill 16 none
    leases := .fill 16 .free
    queue := []
    pages := .fill 320 .stale
    pointer := 0
    badCount := 0
    nextSequence := Config.firstSequence
    census := []
    store := .mounting
    recovered := false
    hold := false
    job := .idle
    op := none }

/-- DEVICE_RESET (R82, R84): the assertion of RST, a drop of the supply, or power-up. In device reset there is no
operation to cut off and nothing more to lose. -/
def execDeviceReset (cut : CutOff) (s : State) : Host.Outcome State Fault Refusal :=
  .next { (s.cutOff cut).loseVolatile with inReset := true }

/-- The port that the straps name, with SVCSEL1 as the high bit (R163). -/
def Straps.names (x : Straps) (p : Port) : Bool := x.svcen && decide (p.val = 2 * x.svcsel1.toNat + x.svcsel0.toNat)

/-- The service flags as sampled from the straps (R163). -/
def State.sampleStraps (s : State) : State :=
  { s with ports := Table.build 4 fun p => { s.ports.get p with service := s.straps.names p } }

/-- RESET_RELEASE (R83, R163): the straps are sampled, the store is MOUNTING and the mount scan begins. A part that is
not in device reset is not released. -/
def execResetRelease (svcen svcsel1 svcsel0 : Bool) (s : State) : Host.Outcome State Fault Refusal :=
  if s.inReset then
    .next
      { ({ s with straps := ⟨svcen, svcsel1, svcsel0⟩ }).sampleStraps with
        inReset := false
        store := .mounting
        job := .mount }
  else .next s

/-- The end of the mount that gave these verdicts (R93): the store becomes FORMATTING, READ_ONLY or READY, with STORE_STATE
to every port; a FORMATTING store takes up its format at the second step (R89). -/
def State.endMount (s : State) (verdicts : Table PageVerdict 320) : State :=
  let t := { s.rebuild verdicts with job := .idle, op := none }
  match epochPage (foundPages verdicts) with
  | some g => (({ t with store := .formatting }).notifyAll (.storeState .formatting)).sweep 0 (some g) []
  | none =>
    let st : StoreState := if Config.badLimit < t.badCount then .readOnly .media else .ready
    ({ t with store := st }).notifyAll (.storeState st)

/-- MOUNT_END (R93). It comes in a store whose mount is under way. -/
def execMountEnd (s : State) : Host.Outcome State Fault Refusal :=
  if s.inReset = false ∧ s.job = .mount then .next (s.endMount s.verdicts) else .next s

/-- PFW_ASSERT (R96): noted; from here on the engine issues no further page operation. -/
def execPfwAssert (s : State) : Host.Outcome State Fault Refusal := .next { s with pfw := true }

/-- The hold may take effect: PFW is asserted, no page operation is in progress, the store is not MOUNTING (R96), and the
part is not in device reset (R82). -/
def State.holdDue (s : State) : Bool := s.pfw && s.op.isNone && s.store != .mounting && !s.inReset

/-- HOLD_TAKES_EFFECT (R96). -/
def execHoldTakesEffect (s : State) : Host.Outcome State Fault Refusal :=
  if s.holdDue then .next { s with hold := true } else .next s

/-- PFW_DEASSERT (R98): the HOLD flag is cleared and a suspended job goes on with its next step. -/
def execPfwDeassert (s : State) : Host.Outcome State Fault Refusal :=
  .next ({ s with pfw := false, hold := false }).resume

end Sys2Proof.Machine
end

