-- ==== Sys2Proof/Machine/Service.lean ====
section
/-!
DEFINITION. FORMAT and PORT_RESET.
-/

namespace Sys2Proof.Machine

/-- A port's side of an accepted FORMAT beside its queued commit: an OPEN transaction becomes NONE with last outcome
ABORTED and no token, and the watch set is emptied (R164, R49, R138). -/
def PortState.formatAccepted (c : PortState) : PortState :=
  let d := { c with watch := .fill 17 false }
  match c.txn with
  | .opened => { d with txn := .none, staging := .records [], lastOutcome := ⟨none, .failed .aborted, none⟩ }
  | .none => d
  | .queued => d
  | .running => d

/-- The acceptance of a FORMAT (R164): FORMATTING with STORE_STATE to every port, the queued commits ABORTED with their
notices, OPEN transactions discarded, and every lease, wait list and watch cleared without lease notices (R115). -/
def State.acceptFormat (s : State) : State :=
  let t := ({ s with store := .formatting }).notifyAll (.storeState .formatting)
  let u := (t.failAllQueued .aborted).onPorts PortState.formatAccepted
  { u with leases := .fill 16 .free }

/-- FORMAT (R164). -/
def formatBody (p : Port) (s : State) : State × ResultHolder :=
  match s.store.readGate with
  | some st => (s, plain st)
  | none => if (s.port p).service = false then (s, plain .notService) else (s.acceptFormat, .result .queued [])

/-- FORMAT (R164). -/
def execFormat (p : Port) (s : State) : Host.Outcome State Fault Refusal := serve p 2 (formatBody p) s

/-- PORT_RESET on the transaction context (R63, R157), but for the token counter. -/
def State.resetTransaction (s : State) (p : Port) : State :=
  match (s.port p).txn with
  | .none => s.onPort p fun c => { c with lastOutcome := .reset }
  | .opened => s.onPort p fun c => { c with txn := .none, staging := .records [], lastOutcome := .reset }
  | .queued =>
    match s.queueEntry p with
    | some e => s.failQueued e .aborted none false
    | none => s
  | .running => s

/-- What PORT_RESET clears in its own port: the token counter, the watch set and the notice queue (R157, R137). -/
def PortState.clearSession (c : PortState) : PortState :=
  { c with tokenCounter := 0, watch := .fill 17 false, notices := [] }

/-- PORT_RESET (R157): the transaction context, the port's leases and places on wait lists, the watch set and the notice
queue; the result is OK with no payload. -/
def portResetBody (p : Port) (s : State) : State × ResultHolder :=
  let t := ((s.resetTransaction p).leaveWaitLists p).passOnAll p
  (t.onPort p PortState.clearSession, plain .ok)

/-- PORT_RESET (R157). -/
def execPortReset (p : Port) (s : State) : Host.Outcome State Fault Refusal := serve p 2 (portResetBody p) s

end Sys2Proof.Machine
end

