-- ==== Sys2Proof/Machine/Transactions.lean ====
section
/-!
DEFINITION. The requests that build, submit and abandon a transaction: BEGIN, STAGE_WRITE, STAGE_DELETE, DROP, COMMIT
and ABORT. The checks of each stand in the order of its rule.
-/

namespace Sys2Proof.Machine

/-- BEGIN (R40, R39). -/
def beginBody (p : Port) (s : State) : State × ResultHolder :=
  match s.store.writeGate with
  | some st => (s, plain st)
  | none =>
    if (s.port p).txn = .none then
      (s.onPort p fun c => { c with txn := .opened, staging := .records [] }, plain .ok)
    else (s, plain .state)

/-- BEGIN (R40). -/
def execBegin (p : Port) (s : State) : Host.Outcome State Fault Refusal := serve p 2 (beginBody p) s

/-- The policy check of a staged entry: the refusal, if any (R43). -/
def State.stagePolicy (s : State) (p : Port) (r : HostRecord) : Option Status :=
  match policyOf s.windows (areaOf s.windows r) with
  | .openWrite => none
  | .frozen => some .policy
  | .leased _ =>
    match windowOfArea (areaOf s.windows r) with
    | some w => if s.holds p w then none else some .notHolder
    | none => none

/-- The reload of the timer of the LEASED window that an accepted staging lies in (R43, R111). -/
def State.stageReload (s : State) (r : HostRecord) : State :=
  match policyOf s.windows (areaOf s.windows r), windowOfArea (areaOf s.windows r) with
  | .leased _, some w => s.loadTimer w
  | _, _ => s

/-- The list already holds the record. -/
def holdsRecord (es : List StagedEntry) (r : HostRecord) : Bool := es.any fun e => e.record == r

/-- The list with the entry staged: replaced in its position, or appended (R44, R41). -/
def stageInto (es : List StagedEntry) (e : StagedEntry) : List StagedEntry :=
  if holdsRecord es e.record then es.map fun x => if x.record = e.record then e else x else es ++ [e]

/-- The record entries of a port's staging list. -/
def PortState.staged (c : PortState) : List StagedEntry :=
  match c.staging with
  | .records es => es
  | .define _ _ => []
  | .clear _ => []

/-- A list of record entries in place of the port's staging list, and the result OK with its length. -/
def State.staged (s : State) (p : Port) (es : List StagedEntry) : State × ResultHolder :=
  (s.onPort p fun c => { c with staging := .records es }, .result .ok [byteOf es.length])

/-- The checks of STAGE_WRITE and STAGE_DELETE after those of their arguments, and the staging (R41, R42, R43, R44). -/
def stageBody (p : Port) (e : StagedEntry) (s : State) : State × ResultHolder :=
  match s.store.writeGate with
  | some st => (s, plain st)
  | none =>
    if (s.port p).txn = .opened then
      match s.stagePolicy p e.record with
      | some st => (s, plain st)
      | none =>
        let es := (s.port p).staged
        if holdsRecord es e.record = false ∧ Config.stageLimit ≤ es.length then (s, plain .stageFull)
        else (s.stageReload e.record).staged p (stageInto es e)
    else (s, plain .state)

/-- STAGE_WRITE: the argument checks, then the staging (R41). -/
def stageWriteBody (p : Port) (record presence : Byte) (expected : Version) (data : List Byte) (s : State) :
    State × ResultHolder :=
  match recordArg record, expectedArg presence expected with
  | some r, some v =>
    if data.length ≤ Config.dataLimit then stageBody p ⟨r, .write data, v⟩ s else (s, plain .badArg)
  | _, _ => (s, plain .badArg)

/-- STAGE_WRITE (R41, R43, R44). -/
def execStageWrite (p : Port) (record presence : Byte) (expected : Version) (data : List Byte) (s : State) :
    Host.Outcome State Fault Refusal :=
  serve p (7 + data.length) (stageWriteBody p record presence expected data) s

/-- STAGE_DELETE: the argument checks, then the staging (R42). -/
def stageDeleteBody (p : Port) (record presence : Byte) (expected : Version) (s : State) : State × ResultHolder :=
  match recordArg record, expectedArg presence expected with
  | some r, some v => stageBody p ⟨r, .delete, v⟩ s
  | _, _ => (s, plain .badArg)

/-- STAGE_DELETE (R42, R43, R44). -/
def execStageDelete (p : Port) (record presence : Byte) (expected : Version) (s : State) :
    Host.Outcome State Fault Refusal :=
  serve p 6 (stageDeleteBody p record presence expected) s

/-- DROP (R45). -/
def dropBody (p : Port) (record : Byte) (s : State) : State × ResultHolder :=
  match recordArg record with
  | none => (s, plain .badArg)
  | some r =>
    match s.store.readGate with
    | some st => (s, plain st)
    | none =>
      if (s.port p).txn = .opened then
        let es := (s.port p).staged
        if holdsRecord es r then s.staged p (es.filter fun e => e.record != r) else (s, plain .notFound)
      else (s, plain .state)

/-- DROP (R45). -/
def execDrop (p : Port) (record : Byte) (s : State) : Host.Outcome State Fault Refusal :=
  serve p 3 (dropBody p record) s

/-- COMMIT (R46, R47, R112): the checks, the submission, and the freeze of the windows held. -/
def commitBody (p : Port) (s : State) : State × ResultHolder :=
  match s.store.writeGate with
  | some st => (s, plain st)
  | none =>
    if (s.port p).txn = .opened then
      if (s.port p).staged = [] then (s, plain .empty)
      else
        let r := s.submit p (.records (s.port p).staged)
        (r.1.freeze p (.records (s.port p).staged), r.2)
    else (s, plain .state)

/-- COMMIT (R46). -/
def execCommit (p : Port) (s : State) : Host.Outcome State Fault Refusal := serve p 2 (commitBody p) s

/-- The transaction of a port becomes NONE with its list discarded (R48). -/
def PortState.discard (c : PortState) : PortState := { c with txn := .none, staging := .records [] }

/-- ABORT (R48, R51): by the transaction state at the event. -/
def abortBody (p : Port) (s : State) : State × ResultHolder :=
  match s.store.readGate with
  | some st => (s, plain st)
  | none =>
    match (s.port p).txn with
    | .none => (s, plain .state)
    | .opened => (s.onPort p PortState.discard, plain .ok)
    | .queued =>
      match s.queueEntry p with
      | some e => (s.failQueued e .aborted none true, plain .ok)
      | none => (s, plain .ok)
    | .running => (s, plain .tooLate)

/-- ABORT (R48). -/
def execAbort (p : Port) (s : State) : Host.Outcome State Fault Refusal := serve p 2 (abortBody p) s

end Sys2Proof.Machine
end

