-- ==== Sys2Proof/Machine/Watches.lean ====
section
/-!
DEFINITION. WATCH and UNWATCH.
-/

namespace Sys2Proof.Machine

/-- The area is a window that the Window Table does not define. -/
def undefinedArea (l : Layout) (a : AreaNo) : Bool :=
  match windowOfArea a with
  | some w => (l.get w).isNone
  | none => false

/-- The port's watch set with the area in it or out of it, and the result OK with the set (R139, R140). -/
def State.setWatch (s : State) (p : Port) (a : AreaNo) (on : Bool) : State × ResultHolder :=
  let watch := (s.port p).watch.set a on
  (s.onPort p fun c => { c with watch := watch }, .result .ok (watchBytes watch))

/-- WATCH (R139). -/
def watchBody (p : Port) (area : Byte) (s : State) : State × ResultHolder :=
  match areaArg area with
  | none => (s, plain .badArg)
  | some a =>
    match s.store.readGate with
    | some st => (s, plain st)
    | none => if undefinedArea s.windows a then (s, plain .noWindow) else s.setWatch p a true

/-- WATCH (R139). -/
def execWatch (p : Port) (area : Byte) (s : State) : Host.Outcome State Fault Refusal :=
  serve p 3 (watchBody p area) s

/-- UNWATCH (R140). -/
def unwatchBody (p : Port) (area : Byte) (s : State) : State × ResultHolder :=
  match areaArg area with
  | none => (s, plain .badArg)
  | some a =>
    match s.store.readGate with
    | some st => (s, plain st)
    | none =>
      if undefinedArea s.windows a then (s, plain .noWindow)
      else if (s.port p).watch.get a then s.setWatch p a false
      else (s, plain .notFound)

/-- UNWATCH (R140). -/
def execUnwatch (p : Port) (area : Byte) (s : State) : Host.Outcome State Fault Refusal :=
  serve p 3 (unwatchBody p area) s

end Sys2Proof.Machine
end

