-- ==== Sys2Proof/Machine/Dispatch.lean ====
section
/-!
DEFINITION. The dispatch: one arm per command, each one call of its meaning.
-/

namespace Sys2Proof.Machine

def exec (i : Instr) (s : State) : Host.Outcome State Fault Refusal :=
  match i with
  | .status p => Sys2Proof.Machine.execStatus p s
  | .read p record => Sys2Proof.Machine.execRead p record s
  | .scan p start scope direction => Sys2Proof.Machine.execScan p start scope direction s
  | .windows p => Sys2Proof.Machine.execWindows p s
  | .beginTxn p => Sys2Proof.Machine.execBegin p s
  | .stageWrite p record presence expected data => Sys2Proof.Machine.execStageWrite p record presence expected data s
  | .stageDelete p record presence expected => Sys2Proof.Machine.execStageDelete p record presence expected s
  | .dropEntry p record => Sys2Proof.Machine.execDrop p record s
  | .commit p => Sys2Proof.Machine.execCommit p s
  | .abort p => Sys2Proof.Machine.execAbort p s
  | .lease p window wait => Sys2Proof.Machine.execLease p window wait s
  | .renew p window => Sys2Proof.Machine.execRenew p window s
  | .release p window => Sys2Proof.Machine.execRelease p window s
  | .breakLease p window => Sys2Proof.Machine.execBreak p window s
  | .watch p area => Sys2Proof.Machine.execWatch p area s
  | .unwatch p area => Sys2Proof.Machine.execUnwatch p area s
  | .defineWindow p window base size policy leaseTime => Sys2Proof.Machine.execDefineWindow p window base size policy leaseTime s
  | .clearWindow p window => Sys2Proof.Machine.execClearWindow p window s
  | .format p => Sys2Proof.Machine.execFormat p s
  | .portReset p => Sys2Proof.Machine.execPortReset p s
  | .badFrame p wave => Sys2Proof.Machine.execBadFrame p wave s
  | .truncated p wave => Sys2Proof.Machine.execTruncated p wave s
  | .frameTimeout p wave => Sys2Proof.Machine.execFrameTimeout p wave s
  | .badLeadByte p lead => Sys2Proof.Machine.execBadLeadByte p lead s
  | .resultFrame p act => Sys2Proof.Machine.execResultFrame p act s
  | .scanBlockDelivered p goesOn => Sys2Proof.Machine.execScanBlockDelivered p goesOn s
  | .noticeFrame p act => Sys2Proof.Machine.execNoticeFrame p act s
  | .noticeEntryDelivered p goesOn => Sys2Proof.Machine.execNoticeEntryDelivered p goesOn s
  | .deviceReset cut => Sys2Proof.Machine.execDeviceReset cut s
  | .resetRelease svcen svcsel1 svcsel0 => Sys2Proof.Machine.execResetRelease svcen svcsel1 svcsel0 s
  | .mountEnd => Sys2Proof.Machine.execMountEnd s
  | .pfwAssert => Sys2Proof.Machine.execPfwAssert s
  | .holdTakesEffect => Sys2Proof.Machine.execHoldTakesEffect s
  | .pfwDeassert => Sys2Proof.Machine.execPfwDeassert s
  | .leaseTick => Sys2Proof.Machine.execLeaseTick s
  | .leaseExpiry w => Sys2Proof.Machine.execLeaseExpiry w s
  | .jobChoice pfwTogether => Sys2Proof.Machine.execJobChoice pfwTogether s
  | .pageProgramVerdict verdict => Sys2Proof.Machine.execPageProgramVerdict verdict s
  | .pageEraseVerdict verdict => Sys2Proof.Machine.execPageEraseVerdict verdict s
  | .formatJobBegin pfwTogether => Sys2Proof.Machine.execFormatJobBegin pfwTogether s

end Sys2Proof.Machine
end

