-- ==== Sys2Proof/Safety.lean ====
section
/-!
DEFINITION. The terms in which the statements speak: what a request's frame and result leave, and the invariants of the
store. Each cites the rule of spec/ that states it.
-/

namespace Sys2Proof.Machine

/-! ## Frames and results -/

/-- The state after the stop of a good request frame of `length` bytes at port `p`: the Frame Controller is IDLE and every
byte was acknowledged (R145, R146). -/
def State.endFrame (s : State) (p : Port) (length : Nat) : State :=
  s.onPort p fun c => { c with controller := .idle, line := ⟨List.replicate length true, []⟩ }

/-- The state with the result holder of port `p` replaced (R149). -/
def State.answer (s : State) (p : Port) (holder : ResultHolder) : State :=
  s.onPort p fun c => { c with holder := holder }

/-- A request of `length` bytes at port `p` that has no effect but its result. -/
def State.answered (s : State) (p : Port) (length : Nat) (holder : ResultHolder) : State :=
  (s.endFrame p length).answer p holder

/-- A refused request: its status with no payload, and no other effect (R161). -/
def State.refused (s : State) (p : Port) (length : Nat) (status : Status) : State :=
  s.answered p length (.result status [])

/-- The port at which a command comes; none for the commands of the device, the timebase and the engine. -/
def portOf : Instr → Option Port
  | .status p | .read p _ | .scan p _ _ _ | .windows p | .beginTxn p | .stageWrite p _ _ _ _ | .stageDelete p _ _ _
  | .dropEntry p _ | .commit p | .abort p | .lease p _ _ | .renew p _ | .release p _ | .breakLease p _ | .watch p _
  | .unwatch p _ | .defineWindow p _ _ _ _ _ | .clearWindow p _ | .format p | .portReset p | .badFrame p _
  | .truncated p _ | .frameTimeout p _ | .badLeadByte p _ | .resultFrame p _ | .scanBlockDelivered p _
  | .noticeFrame p _ | .noticeEntryDelivered p _ => some p
  | .deviceReset _ | .resetRelease _ _ _ | .mountEnd | .pfwAssert | .holdTakesEffect | .pfwDeassert | .leaseTick
  | .leaseExpiry _ | .jobChoice _ | .pageProgramVerdict _ | .pageEraseVerdict _ | .formatJobBegin _ => none

/-- A request that is served in READY and READ_ONLY (Table 35): `t` where it is served, else the state's code. -/
def State.ifServed (s : State) (p : Port) (length : Nat) (t : State) : State :=
  match s.store with
  | .mounting => s.refused p length .mounting
  | .formatting => s.refused p length .formatting
  | .ready => t
  | .readOnly _ => t

/-- A request that is served in READY alone (Table 35): `t` where it is served, else the state's code. -/
def State.ifReady (s : State) (p : Port) (length : Nat) (t : State) : State :=
  match s.store with
  | .mounting => s.refused p length .mounting
  | .formatting => s.refused p length .formatting
  | .readOnly _ => s.refused p length .readOnly
  | .ready => t

/-- The policy lets port `p` stage a change of record `r`, or refuses it: POLICY in a FROZEN area, NOT_HOLDER in a LEASED
one whose lease the port does not hold (R43, Table 25). -/
def State.stagingRefusal (s : State) (p : Port) (r : HostRecord) : Option Status :=
  match policyOf s.windows (areaOf s.windows r), windowOfArea (areaOf s.windows r) with
  | .leased _, some w => if s.holds p w then none else some .notHolder
  | .frozen, _ => some .policy
  | _, _ => none

/-- A staging request of `length` bytes whose arguments are good, with the port's list `es` (R41 to R44): the checks in
their order, then the record's entry replaced in its place or the entry appended, the timer of a LEASED window loaded, and
the number of entries as result. -/
def State.stagingOutcome (s : State) (p : Port) (length : Nat) (e : StagedEntry) (es : List StagedEntry) : State :=
  let loaded : State :=
    match policyOf s.windows (areaOf s.windows e.record), windowOfArea (areaOf s.windows e.record) with
    | .leased _, some w => (s.endFrame p length).loadTimer w
    | _, _ => s.endFrame p length
  let put (l : List StagedEntry) : State :=
    (loaded.onPort p fun c => { c with staging := .records l }).answer p (.result .ok [byteOf l.length])
  s.ifReady p length
    (if (s.port p).txn ≠ .opened then s.refused p length .state
    else match s.stagingRefusal p e.record with
      | some status => s.refused p length status
      | none =>
        if ∃ x ∈ es, x.record = e.record then put (es.map fun x => if x.record = e.record then e else x)
        else if 8 ≤ es.length then s.refused p length .stageFull
        else put (es ++ [e]))

/-- Several notices sent in turn, each to its port (R127, R128). -/
def State.sendAll (s : State) (notices : List (Port × NoticeBody)) : State :=
  notices.foldl (fun u x => u.notify x.1 x.2) s

/-- A lease state after it has passed on: to the oldest waiter with its timer at `ticks`, or free (R106). -/
def LeaseState.passedOn (l : LeaseState) (ticks : Nat) : LeaseState :=
  match l.waiters with
  | [] => ⟨none, []⟩
  | q :: rest => ⟨some ⟨q, ticks, false⟩, rest⟩

/-- The LEASE_GRANTED notice that goes with the passing on of window `w` (R106). -/
def LeaseState.grants (l : LeaseState) (w : WindowNo) : List (Port × NoticeBody) :=
  match l.waiters with
  | [] => []
  | q :: _ => [(q, .leaseGranted w)]

/-! ## Link frames -/

/-- The Frame Controller at a start, or at the end of whatever frame is open: IDLE, and a request frame whose lead byte is
complete leaves BAD_FRAME with TRUNCATED (R147, R151). -/
def PortState.endOpenFrame (c : PortState) : PortState :=
  { c with
    controller := .idle
    holder := match c.controller with
      | .request f => if f.lead.isSome then .result .badFrame [0x03] else c.holder
      | .idle => c.holder
      | .response _ => c.holder }

/-- The host acknowledges `n` bytes in turn, whichever they are (R151). -/
def State.hostAcks (s : State) : Nat → PortState → PortState
  | 0, c => c
  | n + 1, c => s.hostAcks n (s.hostAck c)

/-- What a RESULT frame sends on a holder that is no scan stream: status, payload length, payload and check byte over the
lead byte 0x80 and these (R150, R172); an empty holder sends NO_RESULT. -/
def heldContent (holder : ResultHolder) : List Byte :=
  let closed (body : List Byte) : List Byte := body ++ [checkByte (0x80 :: body)]
  match holder with
  | .empty => closed [0x05, 0x00]
  | .result status payload => closed (status.code :: byteOf payload.length :: payload)
  | .scan _ => []

/-- The notice slot that a port with this queue sends: its head, or the end entry while it is empty (R134). -/
def noticeSlot : List Notice → Slot
  | [] => .noticeEnd endEntrySlot
  | n :: _ => .notice n.slot

/-- The bytes of that slot. -/
def noticeContent : List Notice → List Byte
  | [] => endEntrySlot
  | n :: _ => n.slot

/-! ## The engine -/

/-- A job of the engine goes on to the program of `image`: the first CLEAN page from the allocation pointer is allocated,
PENDING without header fields, and the program is issued; with no page CLEAN the job gives up; while PFW is asserted
nothing is allocated and the job is suspended (R24, R56, R58, R97). -/
def State.issues (u : State) (image : PageImage) (giveUp : State) : State :=
  if u.pfw then { u with op := none }
  else match u.findClean with
    | none => giveUp
    | some g =>
      { u with pages := u.pages.set g (.pending none), pointer := g + 1, op := some (.program g image) }

/-- A page of the array that a mount reads as VALID holds this image: its stored check agrees with its fields, and they lie
within their ranges (R21). -/
def ReadsValid (array : Table PageContent 320) (g : PageNo) (i : PageImage) : Prop :=
  array.get g = .programmed i ∧ i.check = Config.pageCheck i.header i.payload ∧ i.inRange = true

/-- The pages of a complete group (R87): each VALID with sequence `q`, the count, a common relocated flag, a list that
decodes and no EPOCH kind, one page for each position from 1 on in this order, no record twice, and no other such page
with that sequence in the array. -/
def CompleteGroup (array : Table PageContent 320) (q : Sequence) (group : List (PageNo × PageImage)) : Prop :=
  let mayStand (g : PageNo) (i : PageImage) : Prop :=
    ReadsValid array g i ∧ i.header.sequence = q ∧ i.header.kind ≠ .epoch
      ∧ ∀ l, i.payload = .layout l → Layout.valid l = true
  group ≠ []
    ∧ (∀ x ∈ group, mayStand x.1 x.2 ∧ x.2.header.count = group.length)
    ∧ (∀ x ∈ group, ∀ y ∈ group, x.2.header.relocated = y.2.header.relocated)
    ∧ (group.map fun x => x.2.header.position) = (List.range group.length).map (· + 1)
    ∧ (group.map fun x => x.2.header.record).Nodup
    ∧ ∀ g i, mayStand g i → (g, i) ∈ group

/-- A relocation of the transaction of Census entry `e` begins in state `u` and leaves `t` (R75, R76): it takes the next
sequence, or without one left the store enters READ_ONLY with SEQUENCE (R35); its images are those of the LIVE pages in
position order, each with its page's kind and record and the record's version and data, marked relocated; and the first is
issued. -/
def State.RelocationBegins (u : State) (e : CensusEntry) (t : State) : Prop :=
  if u.nextSequence = 0xFFFFFFFF then t = u.enterReadOnly .sequence
  else
    let live := (e.pages.filter CensusPage.live).map CensusPage.page
    ∃ images : List PageImage,
      images.length = live.length
        ∧ (∀ (k : Nat) (g : PageNo) (h : Header) (r : RecordNo), live[k]? = some g → u.page g = .live h →
          h.record = some r →
          images[k]? = some (.checked
            ⟨h.kind, some r, some (u.record r).version, u.nextSequence, k + 1, live.length, true⟩
            (u.record r).payload))
        ∧ ∀ image, images.head? = some image →
          let v := { u with
            nextSequence := u.nextSequence + 1
            job := .relocate e.sequence ⟨u.nextSequence, images, [], 0⟩ }
          t = v.issues image v.relocationMediaFailure

/-- The array as a retirement mark leaves page `g` (R27, R28). -/
def arrayAfterMark (array : Table PageContent 320) (g : PageNo) (mark : MarkOutcome) : Table PageContent 320 :=
  array.set g (match mark with
    | .took => .retired
    | .leftBlank => .blank
    | .leftDamaged => .damaged)

/-- Page `g` after a passed program of `image` (R26). -/
def State.verified (s : State) (g : PageNo) (image : PageImage) : State :=
  { s with array := s.array.set g (.programmed image), pages := s.pages.set g (.pending (some image.header)), op := none }

/-- Page `g` after a failed program (R27): retired. -/
def State.failedProgram (s : State) (g : PageNo) (mark : MarkOutcome) : State :=
  { s with
    array := arrayAfterMark s.array g mark, pages := s.pages.set g .bad, badCount := s.badCount + 1, op := none }

/-- Page `g` after the verdict of its erase (R28): CLEAN, or retired. -/
def State.erased (s : State) (g : PageNo) : EraseVerdict → State
  | .erased => { s with array := s.array.set g .blank, pages := s.pages.set g .clean, op := none }
  | .failed mark => s.failedProgram g mark

/-- The end of a job in state `u`: a READY store with more than 32 BAD pages enters READ_ONLY with reason MEDIA, after all
else that the event brings (R32, R60, R160). -/
def State.settled (u : State) : State := if u.store = .ready ∧ 32 < u.badCount then u.enterReadOnly .media else u

/-- Page `g` is the LIVE page of a record that the images write: their taking effect supersedes it (R67). -/
def State.supersedes (s : State) (images : List PageImage) (g : PageNo) : Bool :=
  images.any fun i => match i.header.record with
    | some r => (s.record r).backing.map Prod.fst == some g
    | none => false

/-- A Census entry once the pages of `gone` are no longer LIVE (R68). -/
def CensusEntry.without (e : CensusEntry) (gone : PageNo → Bool) : CensusEntry :=
  { e with pages := e.pages.map fun x => ⟨x.page, x.live && !gone x.page⟩ }

/-- The Census after the images took effect on the pages, all in one event (R66, R67, R68): an entry left with no LIVE page
is gone, and the job's own entry stands last, every page LIVE. -/
def State.censusAfter (s : State) (run : ImageRun) (pages : List PageNo) : List CensusEntry :=
  ((s.census.map fun e => e.without (s.supersedes run.images)).filter fun e => decide (1 ≤ e.live))
    ++ [⟨run.sequence, pages.map fun g => ⟨g, true⟩⟩]

/-- The Page Directory after the images took effect on the pages (R30, R59, R67, R68): those pages are LIVE with the headers
of their images; every page of a transaction left with no LIVE page is STALE; another superseded page is RETAINED with its
header; no other page changes. -/
def State.pagesAfter (s : State) (run : ImageRun) (pages : List PageNo) : Table PageEntry 320 :=
  Table.build 320 fun g =>
    match (run.images.zip pages).find? fun x => x.2 == g with
    | some x => .live x.1.header
    | none =>
      if s.census.any fun e => e.pages.any (fun x => x.page == g)
          && (e.without (s.supersedes run.images)).live == 0 then .stale
      else match s.page g, s.supersedes run.images g with
        | .live h, true => .retained h
        | entry, _ => entry

/-- Every window frozen and held by port `p` is unfrozen with its timer loaded from the Window Table (R113). -/
def State.leasesThawed (s : State) (p : Port) : Table LeaseState 16 :=
  Table.build 16 fun w =>
    match (s.lease w).held with
    | some h =>
      if h.port = p ∧ h.frozen = true then ⟨some ⟨p, s.leaseTime w, false⟩, (s.lease w).waiters⟩ else s.lease w
    | none => s.lease w

/-- The engine is free to choose: the store is READY, no job runs, and PFW is deasserted (R69, R97). -/
def State.FreeToChoose (s : State) : Prop := s.inReset = false ∧ s.store = .ready ∧ s.job = .idle ∧ s.pfw = false

/-- A Census entry that a relocation may take as its target (R74). -/
def State.Relocatable (s : State) (e : CensusEntry) : Prop := 1 ≤ e.retained ∧ e.live ≤ s.cleanCount

/-- A command from `s` to `t` ends a format (R168): it is one at which the FORMAT job may take a step or begin, and after it
the engine is free, every record is UNWRITTEN, the Window Table and the Census are empty, and the next sequence is 1. -/
def FormatEndsAt (c : Instr) (s t : State) : Prop :=
  ((∃ together, c = .formatJobBegin together)
      ∨ (∃ step noted, s.job = .format step noted)
        ∧ (c = .pfwDeassert ∨ (∃ mark, c = .pageProgramVerdict (.fail mark)) ∨ ∃ verdict, c = .pageEraseVerdict verdict))
    ∧ t.job = .idle ∧ (∀ r, t.record r = .unwritten) ∧ (∀ w, t.windows.get w = none) ∧ t.census = []
    ∧ t.nextSequence = 1

/-- The state changes of page `g` by Table 9, but for the end of a mount and device reset, at the commands that bring them.
A verify that passes gives a PENDING page its header (R26). Where the next attempt at the EPOCH page follows in the same event,
the page that an erase makes CLEAN is PENDING after it (R166). -/
def PageMoves (c : Instr) (s t : State) (g : PageNo) : PageEntry → PageEntry → Prop
  | .clean, .pending none => ∃ i, t.op = some (.program g i)
  | .pending none, .pending (some h) => c = .pageProgramVerdict .pass ∧ ∃ i, s.op = some (.program g i) ∧ h = i.header
  | .pending none, .live h => c = .pageProgramVerdict .pass ∧ ∃ i, s.op = some (.program g i) ∧ h = i.header
  | .pending (some h), .live k => c = .pageProgramVerdict .pass ∧ k = h
  | .pending _, .stale =>
    (c = .pfwDeassert ∨ ∃ verdict, c = .pageProgramVerdict verdict) ∧ t.job = .idle ∧ ∀ step noted, s.job ≠ .format step noted
  | .pending none, .bad => (∃ mark, c = .pageProgramVerdict (.fail mark)) ∧ ∃ i, s.op = some (.program g i)
  | .pending (some _), .clean => c = .pageEraseVerdict .erased ∧ ∃ noted, s.job = .format (.eraseEpoch g) noted
  | .pending (some _), .bad =>
    (∃ mark, c = .pageEraseVerdict (.failed mark)) ∧ ∃ noted, s.job = .format (.eraseEpoch g) noted
  | .live h, .retained k => c = .pageProgramVerdict .pass ∧ k = h
  | .live _, .stale => c = .pageProgramVerdict .pass
  | .retained _, .stale => c = .pageProgramVerdict .pass
  | .stale, .clean => c = .pageEraseVerdict .erased ∧ s.op = some (.erase g)
  | .stale, .bad => (∃ mark, c = .pageEraseVerdict (.failed mark)) ∧ s.op = some (.erase g)
  | .stale, .pending none =>
    c = .pageEraseVerdict .erased ∧ s.op = some (.erase g) ∧ ∃ q failures noted, s.job = .format (.epoch q failures) noted
  | .live _, .clean => FormatEndsAt c s t
  | .live _, .bad => FormatEndsAt c s t
  | .retained _, .clean => FormatEndsAt c s t
  | .retained _, .bad => FormatEndsAt c s t
  | _, _ => False

/-! ## Invariants -/

/-- Every notice queue holds at most 16 entries (R126). -/
def State.NoticesBounded (s : State) : Prop := ∀ p, (s.port p).notices.length ≤ 16

/-- A lease state as R104 shapes it: without a holder the wait list is empty; with one, it holds at most 3 ports, none
twice and never the holder. -/
def LeaseState.WellShaped (l : LeaseState) : Prop :=
  match l.held with
  | none => l.waiters = []
  | some h => l.waiters.length ≤ 3 ∧ l.waiters.Nodup ∧ h.port ∉ l.waiters

/-- Every lease state is well shaped (R104). -/
def State.LeasesWellShaped (s : State) : Prop := ∀ w, (s.lease w).WellShaped

/-- The store state fits the engine's job and device reset: a part in device reset is MOUNTING with no job, a mount runs
in MOUNTING, and a FORMAT job in FORMATTING (R82, R83, R165). -/
def State.StoreConsistent (s : State) : Prop :=
  (s.inReset = true → s.store = .mounting ∧ s.job = .idle)
    ∧ (s.job = .mount → s.store = .mounting)
    ∧ ∀ step noted, s.job = .format step noted → s.store = .formatting

/-- The Commit Queue as R50 gives it: at most one entry per port and at most 4 in all; its ports are exactly those whose
transaction is QUEUED, each with the list it submitted; exactly the port of the COMMIT job is RUNNING, with the job's
list; a store that is MOUNTING or FORMATTING has an empty queue (R37, R50, R55). -/
def State.QueueConsistent (s : State) : Prop :=
  s.queue.length ≤ 4
    ∧ (s.queue.map QueueEntry.port).Nodup
    ∧ (∀ e ∈ s.queue, (s.port e.port).txn = .queued ∧ (s.port e.port).staging = e.staging)
    ∧ (∀ p, (s.port p).txn = .queued → ∃ e ∈ s.queue, e.port = p)
    ∧ (∀ p, (s.port p).txn = .running ↔ ∃ token st run, s.job = .commit p token st run)
    ∧ (∀ p token st run, s.job = .commit p token st run → (s.port p).staging = st)
    ∧ (s.store = .mounting ∨ s.store = .formatting → s.queue = [])

/-- The list of windows that an entry of the layout record holds: empty while it is UNWRITTEN (R7). -/
def layoutOf (e : RecordEntry) : Layout :=
  match e.payload with
  | .layout l => l
  | .bytes _ => .fill 16 none
  | .none => .fill 16 none

/-- The images of a job keep the layout record apart: a record commit's images name host records; a layout commit has one
image, of record 128, whose list is the Window Table with the one entry applied; a relocation's images are marked
relocated (R55, R75, R121). -/
def Job.LayoutConsistent (windows : Layout) : Job → Prop
  | .commit _ _ (.records _) run => ∀ i ∈ run.images, ∃ r : HostRecord, i.header.record = some (tableNo r)
  | .commit _ _ (.define w d) run =>
    ∃ i, run.images = [i] ∧ i.header.kind = .layout ∧ i.header.record = some Config.layoutRecord
      ∧ i.header.relocated = false ∧ i.payload = .layout (windows.set w (some d))
      ∧ Layout.valid (windows.set w (some d)) = true
  | .commit _ _ (.clear w) run =>
    ∃ i, run.images = [i] ∧ i.header.kind = .layout ∧ i.header.record = some Config.layoutRecord
      ∧ i.header.relocated = false ∧ i.payload = .layout (windows.set w none)
  | .relocate _ run => ∀ i ∈ run.images, i.header.relocated = true
  | .idle => True
  | .mount => True
  | .erase _ => True
  | .format _ _ => True

/-- The Window Table holds the same list as entry 128 at every moment, its definitions are in range and never overlap;
with what the queue and the engine's job hold of layouts (R7, R101, R102). -/
def State.LayoutConsistent (s : State) : Prop :=
  s.windows = layoutOf (s.record Config.layoutRecord)
    ∧ Layout.valid s.windows = true
    ∧ (∀ e ∈ s.queue, ∀ w d, e.staging = .define w d → d.inRange = true)
    ∧ s.job.LayoutConsistent s.windows

/-- Records and LIVE pages agree (R2, R23, R30): the page of an entry is LIVE and carries its record, version and sequence,
a TOMBSTONE exactly for DELETED; and a LIVE page is the page of the one record it carries. -/
def State.RecordsBacked (s : State) : Prop :=
  (∀ r g q, (s.record r).backing = some (g, q) →
      ∃ h, s.page g = .live h ∧ h.record = some r ∧ h.version = some (s.record r).version ∧ h.sequence = q
        ∧ h.kind ≠ .epoch ∧ (h.kind = .tombstone ↔ s.record r = .deleted (s.record r).version g q))
    ∧ ∀ g h, s.page g = .live h → ∃ r, h.record = some r ∧ (s.record r).backing = some (g, h.sequence)

/-- The Census (R65): entries in increasing order of sequence, below the next sequence, each with at least one LIVE page and
at most 8 pages, its page at position k LIVE or RETAINED with the entry's sequence, that position and the entry's count; and
every LIVE or RETAINED page stands in one. -/
def State.CensusExact (s : State) : Prop :=
  ((s.census.map CensusEntry.sequence).Pairwise fun x y => x.toNat < y.toNat)
    ∧ (∀ e ∈ s.census, e.sequence.toNat < s.nextSequence.toNat ∧ 1 ≤ e.live ∧ e.pages.length ≤ 8
      ∧ ∀ (k : Nat) x, e.pages[k]? = some x →
        ∃ h, s.page x.page = (if x.live then .live h else .retained h) ∧ h.sequence = e.sequence
          ∧ h.position = k + 1 ∧ h.count = e.pages.length)
    ∧ ∀ g, (s.page g).isLive = true ∨ (s.page g).isRetained = true → ∃ e ∈ s.census, ∃ x ∈ e.pages, x.page = g

/-- No page is PENDING but those of `mine` (R30). -/
def State.PendingOnly (s : State) (mine : PageNo → Prop) : Prop := ∀ g, (s.page g).isPending = true → mine g

/-- The progress of a COMMIT or RELOCATE job fits the Directory (R30, R33, R55, R75): its sequence lies above the Census and
below the next sequence; its images, at most 8, of distinct records, carry their checks, its sequence, their positions, its
count and relocated flag; the pages verified are PENDING with the headers of their images; the page under its program is
PENDING without a header; and no other page is PENDING. -/
def State.RunFits (s : State) (run : ImageRun) (relocated : Bool) : Prop :=
  run.sequence.toNat < s.nextSequence.toNat ∧ (∀ e ∈ s.census, e.sequence.toNat < run.sequence.toNat)
    ∧ run.images.length ≤ 8 ∧ (run.images.map fun i => i.header.record).Nodup
    ∧ (∀ (k : Nat) i, run.images[k]? = some i →
      i.check = Config.pageCheck i.header i.payload ∧ i.header.record.isSome = true ∧ i.header.version.isSome = true
        ∧ i.header.sequence = run.sequence ∧ i.header.position = k + 1 ∧ i.header.count = run.images.length
        ∧ i.header.relocated = relocated ∧ i.header.kind ≠ .epoch)
    ∧ (∀ (k : Nat) g, run.verified[k]? = some g →
      ∃ i, run.images[k]? = some i ∧ s.page g = .pending (some i.header))
    ∧ (s.op = none ∨ ∃ g i, s.op = some (.program g i) ∧ s.page g = .pending none
      ∧ run.images[run.verified.length]? = some i)
    ∧ s.PendingOnly fun g => g ∈ run.verified ∨ ∃ i, s.op = some (.program g i)

/-- The images of a relocation are those of the LIVE pages of its target, in the order of their positions, with the
sequence, positions and count of the relocation (R75). -/
def State.CopiesTarget (s : State) (target : Sequence) (run : ImageRun) : Prop :=
  ∃ e ∈ s.census, e.sequence = target
    ∧ run.images.length = e.live
    ∧ ∀ (k : Nat) x, (e.pages.filter CensusPage.live)[k]? = some x →
      ∃ h i, s.page x.page = .live h ∧ run.images[k]? = some i
        ∧ i.header = { h with sequence := run.sequence, position := k + 1, count := e.live, relocated := true }

/-- Every LIVE or RETAINED page that lies below `next` has the outcome of its erase noted (R29, R167). -/
def State.NotedBelow (s : State) (next : Nat) (noted : List NotedErase) : Prop :=
  ∀ g : PageNo, g.val < next → (s.page g).isLive = true ∨ (s.page g).isRetained = true → g ∈ noted.map NotedErase.page

/-- The step that a format has reached fits the Directory (R29, R30, R166, R167): in the first step nothing is noted, and the
one page that may be PENDING is the one under the program of the EPOCH image; from then on that page is the EPOCH page,
verified or found by a mount, and every LIVE and RETAINED page passed has its outcome noted. -/
def State.FormatFits (s : State) (noted : List NotedErase) : FormatStep → Prop
  | .epoch _ _ =>
    noted = [] ∧ (s.op = none ∨ (∃ g i, s.op = some (.program g i) ∧ s.page g = .pending none
        ∧ i.check = Config.pageCheck i.header i.payload ∧ i.header.kind = .epoch)
      ∨ ∃ g, s.op = some (.erase g) ∧ s.page g = .stale)
      ∧ s.PendingOnly fun g => ∃ i, s.op = some (.program g i)
  | .sweep next epochPage =>
    s.NotedBelow next noted ∧ (∀ n ∈ noted, n.page.val < next)
      ∧ (s.op = none ∨ ∃ g, s.sweepTarget next epochPage = some g ∧ s.op = some (.erase g))
      ∧ (s.PendingOnly fun g => epochPage = some g)
      ∧ ∀ g, epochPage = some g → s.page g = .stale ∨ ∃ h, s.page g = .pending (some h)
  | .eraseEpoch g =>
    s.NotedBelow 320 noted ∧ (s.op = none ∨ s.op = some (.erase g))
      ∧ (s.PendingOnly fun h => h = g) ∧ (s.page g = .stale ∨ ∃ h, s.page g = .pending (some h))

/-- The engine's job and page operation fit the Directory (R30, R69): a page is PENDING only for a job that programs pages,
and each operation is one that its job issues. -/
def State.JobFits (s : State) : Prop :=
  match s.job with
  | .idle => s.op = none ∧ s.PendingOnly fun _ => False
  | .mount => s.op = none ∧ s.PendingOnly fun _ => False
  | .erase g => s.page g = .stale ∧ (s.op = none ∨ s.op = some (.erase g)) ∧ s.PendingOnly fun _ => False
  | .commit _ _ _ run => s.RunFits run false
  | .relocate target run => s.RunFits run true ∧ s.CopiesTarget target run
  | .format step noted =>
    (noted.map NotedErase.page).Nodup
      ∧ (∀ n ∈ noted, (s.page n.page).isLive = true ∨ (s.page n.page).isRetained = true) ∧ s.FormatFits noted step

/-- The Page Directory, the Census, the bad count, the records and the engine's job fit together (R2, R22, R23, R30, R31,
R65). -/
def State.DirectoryConsistent (s : State) : Prop :=
  s.RecordsBacked ∧ s.CensusExact ∧ s.badCount = (allPages.filter fun g => (s.page g).isBad).length ∧ s.JobFits

/-- Only a window that is LEASED has a holder, and none has one while the store is MOUNTING or FORMATTING (R104, R115). -/
def State.LeasesFollowPolicy (s : State) : Prop :=
  (∀ w, (s.lease w).held.isSome = true → ∃ ticks, (s.windows.get w).map WindowDef.policy = some (.leased ticks))
    ∧ (s.store = .mounting ∨ s.store = .formatting → ∀ w, (s.lease w).held = none)

/-- While the HOLD flag is set, PFW is asserted and no page operation is in progress (R96, R97). -/
def State.HoldConsistent (s : State) : Prop := s.hold = true → s.pfw = true ∧ s.op = none

/-- A staging list of record entries never holds more than 8 entries or one record twice, and a WRITE holds at most 32
bytes (R38). -/
def Staging.Bounded : Staging → Prop
  | .records es =>
    es.length ≤ 8 ∧ (es.map StagedEntry.record).Nodup
      ∧ ∀ e ∈ es, ∀ data, e.op = .write data → data.length ≤ 32
  | .define _ _ => True
  | .clear _ => True

/-- Every port's staging list is bounded (R38). -/
def State.StagingBounded (s : State) : Prop := ∀ p, (s.port p).staging.Bounded

end Sys2Proof.Machine
end

