-- ==== Sys2Proof/WellFormed.lean ====
section
/-!
DEFINITION. Well-formed commands: what the encodings and the table's rows admit. Any argument byte of a request is well
formed (its range is checked at execution); a STAGE_WRITE frame carries at most 255 data bytes; the levels of BAD_FRAME and
TRUNCATED spell a frame with a request's lead byte, stopped and not good for BAD_FRAME, ended by a repeated start for
TRUNCATED; those of FRAME_TIMEOUT spell an open frame or are none; and BAD_LEAD_BYTE's lead byte is of the bad form.
-/

namespace Sys2Proof

/-- The bits of the frame that the levels spell, with this end, at a port that is IDLE or whose frame a repeated start has
opened. What the part sends in a response frame does not bear on it: the port's holder is empty. -/
def spelled (wave : List LinkLevels) (ending : Machine.FrameEnd) : Option (List Bool) :=
  let c := Machine.PortState.reset false
  match Machine.State.reset.frameBits c wave ending with
  | some bits => some bits
  | none => Machine.State.reset.frameBits { c with controller := .request .start } wave ending

/-- The bits hold a complete lead byte that marks a request: bit 7 is 0 (R144). -/
def hasRequestLead (bits : List Bool) : Bool :=
  match Machine.completeBytes bits with
  | b :: _ => !b.msb
  | [] => false

/-- The frame of these bits is a request frame that is not good (R146). -/
def notGoodFrame (bits : List Bool) : Bool :=
  match Machine.judgeBytes (Machine.completeBytes bits) with
  | .unknown => true
  | .badLength => true
  | .badCheck => true
  | .noRequest => false
  | .good _ _ => false

/-- The command is one that the table's row and the encodings admit. -/
def WellFormed (i : Instr) : Bool :=
  match i with
  | .stageWrite _ _ _ _ data => decide (data.length ≤ 255)
  | .badFrame _ wave => (spelled wave .stopped).any fun bits => hasRequestLead bits && notGoodFrame bits
  | .truncated _ wave => (spelled wave .restarted).any hasRequestLead
  | .frameTimeout _ wave => wave.isEmpty || (spelled wave .unended).isSome
  | .badLeadByte _ lead => Machine.badLead lead
  | .status _ => true
  | .read _ _ => true
  | .scan _ _ _ _ => true
  | .windows _ => true
  | .beginTxn _ => true
  | .stageDelete _ _ _ _ => true
  | .dropEntry _ _ => true
  | .commit _ => true
  | .abort _ => true
  | .lease _ _ _ => true
  | .renew _ _ => true
  | .release _ _ => true
  | .breakLease _ _ => true
  | .watch _ _ => true
  | .unwatch _ _ => true
  | .defineWindow _ _ _ _ _ _ => true
  | .clearWindow _ _ => true
  | .format _ => true
  | .portReset _ => true
  | .resultFrame _ _ => true
  | .scanBlockDelivered _ _ => true
  | .noticeFrame _ _ => true
  | .noticeEntryDelivered _ _ => true
  | .deviceReset _ => true
  | .resetRelease _ _ _ => true
  | .mountEnd => true
  | .pfwAssert => true
  | .holdTakesEffect => true
  | .pfwDeassert => true
  | .leaseTick => true
  | .leaseExpiry _ => true
  | .jobChoice _ => true
  | .pageProgramVerdict _ => true
  | .pageEraseVerdict _ => true
  | .formatJobBegin _ => true

end Sys2Proof
end

