-- ==== Sys2Proof/Certificates/Slice0/Obligations.lean ====
section
/-!
DEFINITION. The statements for the provers. Each docstring names the rule of spec/ that it formalises, and says so where
it rests on the model's own choice (a log entry).
-/

open Sys2Proof Sys2Proof.Machine

/-! ## The step -/

/-- A step takes the command at the front of the queue, whole, with the rest of the queue behind it; on an empty queue the
part idles. The queue is the model's own (log entries 1 and 2); that each event is taken whole is
95_what_each_step_holds.md. -/
def Obligations.StepTakesFrontCommand : Prop :=
  (∀ (c : Instr) (rest : List Instr) (s : State),
      step { s with pending := c :: rest } = exec c { s with pending := rest })
    ∧ ∀ s : State, step { s with pending := [] } = .next { s with pending := [] }

/-- Every command answers a next state in every state, with the same commands waiting. The spec describes no stop of the part.
That a command which cannot occur in a state answers that state is the model's choice (log entry 10), and so is the queue of
waiting commands (log entry 1). -/
def Obligations.EveryCommandAnswers : Prop :=
  ∀ (c : Instr) (s : State), ∃ t, exec c s = .next t ∧ t.pending = s.pending

/-! ## Frames -/

/-- Requests and their good frames (R146, R171): the good frame of every well-formed request is judged good, and its lead byte
and arguments name that request; and a frame that is judged good is the frame of one well-formed request, byte for byte. -/
def Obligations.GoodFrameNamesRequest : Prop :=
  (∀ (i : Instr) (p : Port) (bytes : List Byte), WellFormed i = true → frameOf i = some (p, bytes) →
      ∃ lead arguments, judgeBytes bytes = .good lead arguments ∧ requestOf p lead arguments = some i)
    ∧ ∀ (p : Port) (bytes : List Byte) (lead : Byte) (arguments : List Byte), judgeBytes bytes = .good lead arguments →
      ∃ i, requestOf p lead arguments = some i ∧ WellFormed i = true ∧ frameOf i = some (p, bytes)

/-- The check byte of R175, computed byte by byte, is the remainder computed bit by bit in the order in which the bits
cross the link; bytes followed by their check byte leave 0 in the register; and a change of any one byte changes it. -/
def Obligations.CheckByteIsRemainder : Prop :=
  (∀ covered : List Byte,
      checkByte covered
        = (covered.flatMap fun b => (List.range 8).map fun k => b.getLsbD (7 - k)).foldl
            (fun (r : Byte) bit => if r.msb != bit then (r <<< 1) ^^^ 0x2F else r <<< 1) 0xFF)
    ∧ (∀ covered : List Byte, checkByte (covered ++ [checkByte covered]) = 0)
    ∧ ∀ (before after : List Byte) (a b : Byte), a ≠ b → checkByte (before ++ a :: after) ≠ checkByte (before ++ b :: after)

/-- The bytes after the lead byte that the part acknowledges (R145): for a known code with a fixed expected length, those
up to that length; for STAGE_WRITE, those up to 7 plus its length argument, and all of them while that argument has not
come; for a code that names no request, all. -/
def Obligations.AcknowledgedBytes : Prop :=
  (∀ (lead : Byte) (n : Nat) (bytes : List Byte), codeLength lead = .fixed n →
      ((RequestFrame.withLead lead).takeAll lead bytes).2
        = (List.range bytes.length).map fun k => decide (k + 2 ≤ n))
    ∧ (∀ (lead : Byte) (bytes : List Byte), codeLength lead = .unknown →
      ((RequestFrame.withLead lead).takeAll lead bytes).2 = List.replicate bytes.length true)
    ∧ ∀ (lead : Byte) (bytes : List Byte), codeLength lead = .byArgument →
      ((RequestFrame.withLead lead).takeAll lead bytes).2
        = (List.range bytes.length).map fun k =>
            match bytes[4]? with
            | some length => decide (k + 2 ≤ 7 + length.toNat)
            | none => true

/-! ## Requests that report -/

/-- STATUS is served in every store state and answers OK with the 30 bytes of Table 43, taken at its stop; it changes
nothing but its port's holder (R169, R173). -/
def Obligations.StatusReports : Prop :=
  ∀ (p : Port) (s : State), s.inReset = false →
    exec (.status p) s = .next (s.answered p 2 (.result .ok
      ([s.store.code, s.store.reasonCode,
          (if s.recovered then 0x01 else 0x00) ||| (if s.hold then 0x02 else 0x00)
            ||| (if (s.port p).service then 0x04 else 0x00),
          s.job.code, (s.port p).txn.code,
          byteOf (if (s.port p).txn = .none then 0 else (s.port p).staging.count),
          (s.port p).lastOutcome.code.code]
        ++ (match (s.port p).lastOutcome.token with
          | some token => [0x00, token]
          | none => [0xFF, 0xFF])
        ++ be32 ((s.port p).lastOutcome.sequence.getD 0xFFFFFFFF)
        ++ be16Of (allPages.filter fun g => (s.page g).isClean).length
        ++ be16Of (allPages.filter fun g => (s.page g).isPending).length
        ++ be16Of (allPages.filter fun g => (s.page g).isLive).length
        ++ be16Of (allPages.filter fun g => (s.page g).isRetained).length
        ++ be16Of (allPages.filter fun g => (s.page g).isStale).length
        ++ be16Of (allPages.filter fun g => (s.page g).isBad).length
        ++ be32 s.nextSequence ++ [byteOf s.queue.length])))

/-- READ: BAD_ARG above 127, the store-state code in MOUNTING and FORMATTING, else OK with the record's number, state,
version, length and data; nothing else changes, no lease timer among it (R11). -/
def Obligations.ReadAnswers : Prop :=
  ∀ (p : Port) (s : State), s.inReset = false →
    (∀ b : Byte, 127 < b.toNat → exec (.read p b) s = .next (s.refused p 3 .badArg))
      ∧ ∀ r : HostRecord,
        exec (.read p (byteOf r.val)) s = .next (s.ifServed p 3 (s.answered p 3 (.result .ok
          (match s.record (tableNo r) with
          | .unwritten => [byteOf r.val, 0x00, 0x00, 0x00, 0x00]
          | .present v d _ _ => [byteOf r.val, 0x01] ++ be16 v ++ byteOf d.data.length :: d.data
          | .deleted v _ _ => [byteOf r.val, 0x02] ++ be16 v ++ [0x00]))))

/-- SCAN: BAD_ARG for a start above 127 or an undefined scope or direction, the store-state code in MOUNTING and
FORMATTING, else the scan stream with a cursor at the start record whose range is all records, or those of the start
record's area, with every position of it remaining (R13). -/
def Obligations.ScanSetsCursor : Prop :=
  ∀ (p : Port) (scope direction : Byte) (s : State), s.inReset = false →
    (∀ b : Byte, 127 < b.toNat → exec (.scan p b scope direction) s = .next (s.refused p 5 .badArg))
      ∧ ∀ r : HostRecord,
        exec (.scan p (byteOf r.val) scope direction) s
          = .next
            (if 1 < scope.toNat ∨ 1 < direction.toNat then s.refused p 5 .badArg
            else
              let range := hostRecords.filter fun q => scope == 0x01 || areaOf s.windows q == areaOf s.windows r
              s.ifServed p 5 (s.answered p 5 (.scan
                ⟨if scope = 0x01 then .all else .area, if direction = 0x01 then .down else .up, r, range, r,
                  range.length, none⟩)))

/-- The order in which a cursor steps (R14): one lap from a record passes every position of the range exactly once,
starting with it; the record after r is, going UP, the lowest above r, or the lowest of the range if none is above; going
DOWN, the highest below r, or the highest of the range. -/
def Obligations.ScanWalksRangeOnce : Prop :=
  ∀ (range : List HostRecord) (r : HostRecord), range.Pairwise (· < ·) → r ∈ range →
    (∀ direction, (scanLap range direction r).Perm range ∧ (scanLap range direction r).head? = some r)
      ∧ scanAfter range .up r ∈ range ∧ scanAfter range .down r ∈ range
      ∧ (if ∃ q ∈ range, r < q then r < scanAfter range .up r ∧ ∀ q ∈ range, r < q → scanAfter range .up r ≤ q
        else ∀ q ∈ range, scanAfter range .up r ≤ q)
      ∧ if ∃ q ∈ range, q < r then scanAfter range .down r < r ∧ ∀ q ∈ range, q < r → q ≤ scanAfter range .down r
        else ∀ q ∈ range, q ≤ scanAfter range .down r

/-- WINDOWS: the store-state code in MOUNTING and FORMATTING, else OK with the layout record's version and sequence (0 and
0xFFFFFFFF while it is UNWRITTEN), the number of defined windows and each definition in increasing order of number; nothing
else changes (R124, Table 41). -/
def Obligations.WindowsReports : Prop :=
  ∀ (p : Port) (s : State), s.inReset = false →
    exec (.windows p) s = .next (s.ifServed p 2 (s.answered p 2 (.result .ok
      ((match s.record Config.layoutRecord with
          | .unwritten => [0x00, 0x00, 0xFF, 0xFF, 0xFF, 0xFF]
          | .present v _ _ q => be16 v ++ be32 q
          | .deleted v _ q => be16 v ++ be32 q)
        ++ byteOf (allWindows.filter fun w => (s.windows.get w).isSome).length
          :: (allWindows.filterMap fun w => (s.windows.get w).map fun d => (w, d)).flatMap fun x =>
            [byteOf x.1.val, byteOf x.2.base, byteOf x.2.size]
              ++ match x.2.policy with
                | .openWrite => [0x00, 0x00]
                | .leased ticks => [0x01, byteOf ticks]
                | .frozen => [0x02, 0x00]))))

/-! ## Transactions -/

/-- BEGIN (R40): the store-state code outside READY, STATE unless the port's transaction is NONE, else OPEN with an empty list
and the result OK; token counter, last outcome and everything else stay. ABORT (R48): the store-state code in MOUNTING and
FORMATTING; STATE in NONE; in OPEN the list is discarded with the token counter and last outcome kept; in QUEUED the commit is
removed as R51 states; TOO_LATE in RUNNING. -/
def Obligations.BeginAndAbort : Prop :=
  ∀ (p : Port) (s : State), s.inReset = false →
    exec (.beginTxn p) s = .next (s.ifReady p 2
        (if (s.port p).txn = .none then
          ((s.endFrame p 2).onPort p fun c => { c with txn := .opened, staging := .records [] }).answer p (.result .ok [])
        else s.refused p 2 .state))
      ∧ (((s.port p).txn = .queued → ∃ e ∈ s.queue, e.port = p) →
        exec (.abort p) s = .next (s.ifServed p 2
          (match (s.port p).txn with
          | .none => s.refused p 2 .state
          | .opened =>
            ((s.endFrame p 2).onPort p fun c => { c with txn := .none, staging := .records [] }).answer p (.result .ok [])
          | .queued =>
            match s.queue.find? fun e => e.port = p with
            | some e => ((s.endFrame p 2).failQueued e .aborted none true).answer p (.result .ok [])
            | none => s
          | .running => s.refused p 2 .tooLate)))

/-- STAGE_WRITE and STAGE_DELETE (R41 to R44): BAD_ARG for a record above 127, a presence byte other than 0 and 1, or more
than 32 data bytes; the store-state code outside READY; STATE unless OPEN; POLICY in a FROZEN area; NOT_HOLDER in a LEASED
one whose lease the port does not hold; then the record's entry replaced in its place, or STAGE_FULL at 8 entries, or the
entry appended, with the count as result and the timer of a LEASED window loaded. -/
def Obligations.StagingBuildsList : Prop :=
  ∀ (p : Port) (presence : Byte) (version : Version) (s : State), s.inReset = false →
    (∀ (b : Byte) (data : List Byte), 127 < b.toNat ∨ 1 < presence.toNat ∨ 32 < data.length →
        exec (.stageWrite p b presence version data) s = .next (s.refused p (7 + data.length) .badArg))
      ∧ (∀ b : Byte, 127 < b.toNat ∨ 1 < presence.toNat →
        exec (.stageDelete p b presence version) s = .next (s.refused p 6 .badArg))
      ∧ ∀ (r : HostRecord) (es : List StagedEntry), presence.toNat ≤ 1 →
        ((s.port p).txn = .opened → (s.port p).staging = .records es) →
        let expected : Option Version := if presence = 0x00 then none else some version
        (∀ data : List Byte, data.length ≤ 32 →
          exec (.stageWrite p (byteOf r.val) presence version data) s
            = .next (s.stagingOutcome p (7 + data.length) ⟨r, .write data, expected⟩ es))
          ∧ exec (.stageDelete p (byteOf r.val) presence version) s
            = .next (s.stagingOutcome p 6 ⟨r, .delete, expected⟩ es)

/-- DROP (R45): BAD_ARG above 127, the store-state code in MOUNTING and FORMATTING, STATE unless OPEN, NOT_FOUND for a
record that is not in the list, else the entry removed, the later ones moving up, with the number left as result. No
policy is checked and no timer loaded. A list that it empties stays OPEN, and a COMMIT of it is refused with EMPTY. -/
def Obligations.DropRemovesEntry : Prop :=
  ∀ (p : Port) (s : State), s.inReset = false →
    (∀ b : Byte, 127 < b.toNat → exec (.dropEntry p b) s = .next (s.refused p 3 .badArg))
      ∧ ∀ (r : HostRecord) (es : List StagedEntry),
        ((s.port p).txn = .opened → (s.port p).staging = .records es) →
        exec (.dropEntry p (byteOf r.val)) s = .next (s.ifServed p 3
          (if (s.port p).txn ≠ .opened then s.refused p 3 .state
          else if ∃ x ∈ es, x.record = r then
            let left := es.filter fun x => x.record ≠ r
            ((s.endFrame p 3).onPort p fun c => { c with staging := .records left }).answer p
              (.result .ok [byteOf left.length])
          else s.refused p 3 .notFound))
        ∧ (s.store = .ready → (s.port p).txn = .opened → es = [] →
          exec (.commit p) s = .next (s.refused p 2 .empty))

/-- COMMIT (R46, R47, R112): the store-state code outside READY, STATE unless OPEN, EMPTY for an empty list; else in one
event the token counter rises by 1 modulo 256, the transaction is QUEUED, the list joins the tail of the queue with the new
token, every window that the port holds and that covers an entry is frozen with its timer as it stands, and the result is
QUEUED with the token and the place. -/
def Obligations.CommitSubmits : Prop :=
  ∀ (p : Port) (es : List StagedEntry) (s : State), s.inReset = false →
    ((s.port p).txn = .opened → (s.port p).staging = .records es) →
    exec (.commit p) s = .next (s.ifReady p 2
      (if (s.port p).txn ≠ .opened then s.refused p 2 .state
      else if es = [] then s.refused p 2 .empty
      else
        let token := (s.port p).tokenCounter + 1
        let t := (s.endFrame p 2).onPort p fun c => { c with txn := .queued, tokenCounter := token }
        State.answer
          { t with
            queue := s.queue ++ [⟨p, token, .records es⟩]
            leases := Table.build 16 fun w =>
              match (s.lease w).held, s.windows.get w with
              | some h, some d =>
                if h.port = p ∧ ∃ e ∈ es, d.base ≤ e.record.val ∧ e.record.val < d.base + d.size then
                  ⟨some ⟨p, h.timer, true⟩, (s.lease w).waiters⟩
                else s.lease w
              | _, _ => s.lease w }
          p (.result .queued [token, byteOf (s.queue.length + 1)])))

/-- A queued commit that ends without starting (R51, R53): it leaves the queue, the entries behind it moving up; its
port's transaction is NONE with the list discarded and the last outcome the reason with the token and no sequence; its
port gets COMMIT_FAILED where one is sent; every window frozen and held by the port is unfrozen and loaded. No other port,
record, page, sequence or window changes. -/
def Obligations.QueuedCommitFails : Prop :=
  ∀ (s : State) (e : QueueEntry) (reason : FailReason) (record : Option HostRecord) (tell : Bool),
    s.failQueued e reason record tell
      = { s with
          queue := s.queue.filter fun x => x.port ≠ e.port
          ports := s.ports.set e.port { s.port e.port with
            txn := .none, staging := .records [], lastOutcome := ⟨some e.token, .failed reason, none⟩
            notices := if tell then appendNotice (.commitFailed e.token reason record) (s.port e.port).notices
              else (s.port e.port).notices }
          leases := Table.build 16 fun w =>
            match (s.lease w).held with
            | some h =>
              if h.port = e.port ∧ h.frozen = true then ⟨some ⟨e.port, s.leaseTime w, false⟩, (s.lease w).waiters⟩
              else s.lease w
            | none => s.lease w }

/-! ## Leases -/

/-- LEASE (R107): BAD_ARG for a window above 15 or a wait choice other than no and yes; the store-state code in MOUNTING
and FORMATTING; NO_WINDOW; POLICY unless LEASED; a free window is granted with a loaded timer; the holder's timer is loaded
again unless frozen; to another port the answer is HELD, or WAITING with its place at the tail of the wait list or where it
already stands. -/
def Obligations.LeaseGrants : Prop :=
  ∀ (p : Port) (wait : Byte) (s : State), s.inReset = false →
    (∀ b : Byte, 15 < b.toNat → exec (.lease p b wait) s = .next (s.refused p 4 .badArg))
      ∧ ∀ w : WindowNo,
        exec (.lease p (byteOf w.val) wait) s
          = .next
            (if 1 < wait.toNat then s.refused p 4 .badArg
            else s.ifServed p 4
              (match (s.windows.get w).map WindowDef.policy with
              | none => s.refused p 4 .noWindow
              | some .openWrite => s.refused p 4 .policy
              | some .frozen => s.refused p 4 .policy
              | some (.leased t) =>
                let take := fun (l : LeaseState) (h : ResultHolder) => ((s.endFrame p 4).setLease w l).answer p h
                match (s.lease w).held with
                | none => take ⟨some ⟨p, t, false⟩, (s.lease w).waiters⟩ (.result .granted [byteOf t])
                | some h =>
                  if h.port = p then
                    if h.frozen then s.answered p 4 (.result .granted [byteOf t])
                    else take ⟨some ⟨p, t, false⟩, (s.lease w).waiters⟩ (.result .granted [byteOf t])
                  else if wait = 0x00 then s.refused p 4 .held
                  else if p ∈ (s.lease w).waiters then
                    s.answered p 4 (.result .waiting [byteOf ((s.lease w).waiters.idxOf p + 1)])
                  else take ⟨some h, (s.lease w).waiters ++ [p]⟩
                    (.result .waiting [byteOf ((s.lease w).waiters.length + 1)])))

/-- RENEW (R108): BAD_ARG for a window above 15; the store-state code in MOUNTING and FORMATTING; NO_WINDOW; NOT_HOLDER
for a port that is not the holder; else OK, with the timer loaded unless the frozen flag is set. Wait lists stay. -/
def Obligations.RenewLoads : Prop :=
  ∀ (p : Port) (s : State), s.inReset = false →
    (∀ b : Byte, 15 < b.toNat → exec (.renew p b) s = .next (s.refused p 3 .badArg))
      ∧ ∀ w : WindowNo,
        exec (.renew p (byteOf w.val)) s = .next (s.ifServed p 3
          (match s.windows.get w with
          | none => s.refused p 3 .noWindow
          | some d =>
            match (s.lease w).held with
            | none => s.refused p 3 .notHolder
            | some h =>
              if h.port ≠ p then s.refused p 3 .notHolder
              else if h.frozen then s.answered p 3 (.result .ok [])
              else ((s.endFrame p 3).setLease w ⟨some ⟨p, d.policy.ticks, false⟩, (s.lease w).waiters⟩).answer p
                (.result .ok [])))

/-- RELEASE (R109): BAD_ARG, the store-state code, NO_WINDOW; the holder with a pending commit in the window is answered
PENDING_COMMIT, else the lease passes on with its LEASE_GRANTED and the result is OK; a waiter leaves the list with OK; any
other port gets NOT_HOLDER. A pending commit is one QUEUED or RUNNING with a record entry that the window covers. -/
def Obligations.ReleasePassesOn : Prop :=
  (∀ (p : Port) (w : WindowNo) (s : State),
      s.pendingCommit p w = true ↔
        ((s.port p).txn = .queued ∨ (s.port p).txn = .running)
          ∧ ∃ es d, (s.port p).staging = .records es ∧ s.windows.get w = some d
            ∧ ∃ e ∈ es, d.base ≤ e.record.val ∧ e.record.val < d.base + d.size)
    ∧ ∀ (p : Port) (s : State), s.inReset = false →
      (∀ b : Byte, 15 < b.toNat → exec (.release p b) s = .next (s.refused p 3 .badArg))
        ∧ ∀ w : WindowNo,
          exec (.release p (byteOf w.val)) s = .next (s.ifServed p 3
            (match s.windows.get w with
            | none => s.refused p 3 .noWindow
            | some d =>
              let l := s.lease w
              if l.held.map HeldLease.port = some p then
                if s.pendingCommit p w then s.refused p 3 .pendingCommit
                else
                  (((s.endFrame p 3).setLease w (l.passedOn d.policy.ticks)).sendAll (l.grants w)).answer p
                    (.result .ok [])
              else if p ∈ l.waiters then
                ((s.endFrame p 3).setLease w ⟨l.held, l.waiters.filter fun q => q ≠ p⟩).answer p (.result .ok [])
              else s.refused p 3 .notHolder))

/-- BREAK (R110): BAD_ARG, the store-state code, NOT_SERVICE, NO_WINDOW, NOT_HELD, PENDING_COMMIT for the holder's pending
commit; else LEASE_REVOKED to the holder, then the lease passes on with its LEASE_GRANTED, and the result is OK. -/
def Obligations.BreakRevokes : Prop :=
  ∀ (p : Port) (s : State), s.inReset = false →
    (∀ b : Byte, 15 < b.toNat → exec (.breakLease p b) s = .next (s.refused p 3 .badArg))
      ∧ ∀ w : WindowNo,
        exec (.breakLease p (byteOf w.val)) s = .next (s.ifServed p 3
          (if (s.port p).service = false then s.refused p 3 .notService
          else match s.windows.get w with
            | none => s.refused p 3 .noWindow
            | some d =>
              let l := s.lease w
              match l.held with
              | none => s.refused p 3 .notHeld
              | some h =>
                if s.pendingCommit h.port w then s.refused p 3 .pendingCommit
                else
                  (((s.endFrame p 3).setLease w (l.passedOn d.policy.ticks)).sendAll
                    ((h.port, .leaseRevoked w) :: l.grants w)).answer p (.result .ok [])))

/-- LEASE_TICK and LEASE_EXPIRY (R105, R106, R114, R128). At a tick, one event, every held window with a clear frozen flag has
its timer lowered by 1; one that comes to 0 expires: the holder gets LEASE_EXPIRED and the lease passes on, the windows in
increasing number. LEASE_EXPIRY names a tick by a window whose timer it brings to 0; at a window that no tick is about to
expire it is no event (log entries 9 and 10, the model's choice). -/
def Obligations.TickLowersTimers : Prop :=
  ∀ s : State, s.inReset = false →
    let expires : WindowNo → Bool := fun w => match (s.lease w).held with
      | some h => !h.frozen && decide (h.timer ≤ 1)
      | none => false
    let notices : WindowNo → List (Port × NoticeBody) := fun w => match (s.lease w).held with
      | some h => (h.port, NoticeBody.leaseExpired w) :: (s.lease w).grants w
      | none => []
    let ticked : State :=
      { s.sendAll ((allWindows.filter expires).flatMap notices) with
        leases := Table.build 16 fun w =>
          if expires w then (s.lease w).passedOn (s.leaseTime w)
          else match (s.lease w).held with
            | some h => if h.frozen then s.lease w else ⟨some ⟨h.port, h.timer - 1, false⟩, (s.lease w).waiters⟩
            | none => s.lease w }
    exec .leaseTick s = .next ticked ∧ ∀ w, exec (.leaseExpiry w) s = .next (if expires w then ticked else s)

/-! ## Watches, layouts, format, port reset -/

/-- WATCH and UNWATCH (R139, R140): BAD_ARG above 16; the store-state code in MOUNTING and FORMATTING; NO_WINDOW for an
undefined window; UNWATCH of an area not in the set NOT_FOUND; else the area joins or leaves the watch set and the result is
OK with the areas of the set in increasing order. No notice is removed and nothing else changes. -/
def Obligations.WatchChangesSet : Prop :=
  ∀ (p : Port) (s : State), s.inReset = false →
    (∀ b : Byte, 16 < b.toNat →
        exec (.watch p b) s = .next (s.refused p 3 .badArg) ∧ exec (.unwatch p b) s = .next (s.refused p 3 .badArg))
      ∧ ∀ a : AreaNo,
        let undefined : Bool := match windowOfArea a with
          | some w => (s.windows.get w).isNone
          | none => false
        let put := fun (watch : Table Bool 17) =>
          ((s.endFrame p 3).onPort p fun c => { c with watch := watch }).answer p
            (.result .ok ((allAreas.filter fun x => watch.get x).map fun x => byteOf x.val))
        exec (.watch p (byteOf a.val)) s = .next (s.ifServed p 3
            (if undefined then s.refused p 3 .noWindow else put ((s.port p).watch.set a true)))
          ∧ exec (.unwatch p (byteOf a.val)) s = .next (s.ifServed p 3
            (if undefined then s.refused p 3 .noWindow
            else if (s.port p).watch.get a then put ((s.port p).watch.set a false)
            else s.refused p 3 .notFound))

/-- DEFINE_WINDOW (R118): BAD_ARG for a window above 15, a base above 127, a size that is no power of two up to 128, a base
that is no multiple of the size, a base plus size above 128, an undefined policy, or a lease time that does not fit the
policy; the store-state code outside READY; STATE unless NONE; NOT_SERVICE for FROZEN from a port whose flag is clear; else
the DEFINE entry is queued with a new token, the transaction is QUEUED, and the result is QUEUED with token and place. No
window is frozen. -/
def Obligations.DefineWindowQueues : Prop :=
  ∀ (p : Port) (base size policy ticks : Byte) (s : State), s.inReset = false →
    (∀ b : Byte, 15 < b.toNat →
        exec (.defineWindow p b base size policy ticks) s = .next (s.refused p 7 .badArg))
      ∧ ∀ w : WindowNo,
        exec (.defineWindow p (byteOf w.val) base size policy ticks) s
          = .next
            (if 127 < base.toNat ∨ size.toNat ∉ [1, 2, 4, 8, 16, 32, 64, 128] ∨ base.toNat % size.toNat ≠ 0
                ∨ 128 < base.toNat + size.toNat ∨ 2 < policy.toNat ∨ ¬(policy = 0x01 ↔ ticks ≠ 0x00) then
              s.refused p 7 .badArg
            else s.ifReady p 7
              (if (s.port p).txn ≠ .none then s.refused p 7 .state
              else if policy = 0x02 ∧ (s.port p).service = false then s.refused p 7 .notService
              else
                let d : WindowDef := ⟨base.toNat, size.toNat,
                  if policy = 0x00 then .openWrite else if policy = 0x01 then .leased ticks.toNat else .frozen⟩
                let token := (s.port p).tokenCounter + 1
                let t := (s.endFrame p 7).onPort p fun c =>
                  { c with txn := .queued, staging := .define w d, tokenCounter := token }
                State.answer { t with queue := s.queue ++ [⟨p, token, .define w d⟩] } p
                  (.result .queued [token, byteOf (s.queue.length + 1)])))

/-- CLEAR_WINDOW (R119): BAD_ARG for a window above 15; the store-state code outside READY; STATE unless NONE; NO_WINDOW
for an undefined window; else the CLEAR entry is queued in the manner of R118. Policy, lease and service flag are not
checked here. -/
def Obligations.ClearWindowQueues : Prop :=
  ∀ (p : Port) (s : State), s.inReset = false →
    (∀ b : Byte, 15 < b.toNat → exec (.clearWindow p b) s = .next (s.refused p 3 .badArg))
      ∧ ∀ w : WindowNo,
        exec (.clearWindow p (byteOf w.val)) s = .next (s.ifReady p 3
          (if (s.port p).txn ≠ .none then s.refused p 3 .state
          else if s.windows.get w = none then s.refused p 3 .noWindow
          else
            let token := (s.port p).tokenCounter + 1
            let t := (s.endFrame p 3).onPort p fun c =>
              { c with txn := .queued, staging := .clear w, tokenCounter := token }
            State.answer { t with queue := s.queue ++ [⟨p, token, .clear w⟩] } p
              (.result .queued [token, byteOf (s.queue.length + 1)])))

/-- FORMAT (R164): the store-state code in MOUNTING and FORMATTING; NOT_SERVICE; else in one event the store is FORMATTING,
the queue and every lease and wait list are empty, and for every port: STORE_STATE with FORMATTING, then COMMIT_FAILED with
ABORTED if its commit was queued; an OPEN transaction is NONE with outcome ABORTED and no token, a QUEUED one NONE with
outcome ABORTED and its token, a RUNNING one goes on; the watch set is empty. Records, windows, pages, Census, token
counters and the engine's job are not changed. -/
def Obligations.FormatAccepted : Prop :=
  ∀ (p : Port) (s : State), s.inReset = false → s.QueueConsistent →
    (s.store = .mounting → exec (.format p) s = .next (s.refused p 2 .mounting))
      ∧ (s.store = .formatting → exec (.format p) s = .next (s.refused p 2 .formatting))
      ∧ (s.store ≠ .mounting → s.store ≠ .formatting →
        if (s.port p).service = false then exec (.format p) s = .next (s.refused p 2 .notService)
        else ∃ ports,
          exec (.format p) s
              = .next (State.answer
                { s with store := .formatting, queue := [], leases := .fill 16 ⟨none, []⟩, ports := ports } p
                (.result .queued []))
            ∧ ∀ q,
              let c := (s.endFrame p 2).port q
              let told := appendNotice (.storeState .formatting) c.notices
              ports.get q = match c.txn with
                | .none => { c with watch := .fill 17 false, notices := told }
                | .running => { c with watch := .fill 17 false, notices := told }
                | .opened =>
                  { c with
                    watch := .fill 17 false, notices := told, txn := .none, staging := .records []
                    lastOutcome := ⟨none, .failed .aborted, none⟩ }
                | .queued =>
                  match s.queue.find? fun e => e.port = q with
                  | some e =>
                    { c with
                      watch := .fill 17 false, txn := .none, staging := .records []
                      notices := appendNotice (.commitFailed e.token .aborted none) told
                      lastOutcome := ⟨some e.token, .failed .aborted, none⟩ }
                  | none => c)

/-- PORT_RESET (R157, R63, R115, R137), in every store state: its commit leaves the queue; every window it holds passes on
in increasing number with LEASE_GRANTED to the new holder, and it leaves every wait list; its own port's transaction is
NONE but for a RUNNING one, its last outcome ABORTED with the token for a QUEUED commit, kept for a RUNNING one, else NONE;
token counter 0, watch set and notice queue empty, result OK with no payload. The service flag, records, windows, pages and
the engine stay, and other ports get nothing but their grants. -/
def Obligations.PortResetClearsPort : Prop :=
  ∀ (p : Port) (s : State), s.inReset = false → s.QueueConsistent →
    let without : WindowNo → List Port := fun w => (s.lease w).waiters.filter fun q => q ≠ p
    let mine : WindowNo → Bool := fun w => match (s.lease w).held with
      | some h => h.port == p
      | none => false
    let grants := (allWindows.filter mine).flatMap fun w => LeaseState.grants ⟨none, without w⟩ w
    ∃ ports,
      exec (.portReset p) s
          = .next
            { s with
              queue := s.queue.filter fun e => e.port ≠ p
              leases := Table.build 16 fun w =>
                if mine w then LeaseState.passedOn ⟨none, without w⟩ (s.leaseTime w) else ⟨(s.lease w).held, without w⟩
              ports := ports }
        ∧ (∀ q, q ≠ p → ports.get q = (s.sendAll grants).port q)
        ∧ ports.get p
          = { (s.endFrame p 2).port p with
              txn := if (s.port p).txn = .running then .running else .none
              staging := if (s.port p).txn = .running ∨ (s.port p).txn = .none then (s.port p).staging else .records []
              lastOutcome := match (s.port p).txn with
                | .running => (s.port p).lastOutcome
                | .queued =>
                  match s.queue.find? fun e => e.port = p with
                  | some e => ⟨some e.token, .failed .aborted, none⟩
                  | none => (s.port p).lastOutcome
                | .none => ⟨none, .none, none⟩
                | .opened => ⟨none, .none, none⟩
              tokenCounter := 0
              watch := .fill 17 false
              notices := []
              holder := .result .ok [] }

/-! ## Link frames -/

/-- BAD_FRAME and TRUNCATED (R145, R146, R147). A stopped request frame that is not good leaves UNKNOWN for an unknown code,
else BAD_FRAME with LENGTH unless its complete bytes are as many as the request has, else with CHECK; one that a repeated
start ends leaves BAD_FRAME with TRUNCATED, whatever it held, and a new frame opens. Its bytes were acknowledged as R145
gives, and nothing beside the port's link and result holder changes. Levels that spell no such frame, and a good frame, are no
such event (log entries 10 and 25, the model's choice). -/
def Obligations.BadFramesAreAnswered : Prop :=
  ∀ (p : Port) (wave : List LinkLevels) (s : State), s.inReset = false →
    (∀ (ending : FrameEnd) (bits : List Bool) (lead : Byte) (rest : List Byte),
        s.readFrame (s.port p) wave = some (bits, ending) → completeBytes bits = lead :: rest → lead.msb = false →
        let line : LineRecord := ⟨true :: ((RequestFrame.withLead lead).takeAll lead rest).2, []⟩
        let fits : Bool := match codeLength lead with
          | .unknown => false
          | .fixed n => rest.length + 1 == n
          | .byArgument => match rest[4]? with
            | some length => rest.length + 1 == 7 + length.toNat
            | none => false
        (ending = .stopped →
            exec (.badFrame p wave) s
              = .next (if notGoodFrame bits then s.onPort p fun c =>
                  { c with
                    controller := .idle, line := line
                    holder := if codeLength lead = .unknown then .result .unknown []
                      else if fits then .result .badFrame [0x02] else .result .badFrame [0x01] }
                else s))
          ∧ (ending = .restarted →
            exec (.truncated p wave) s = .next (s.onPort p fun c =>
              { c with
                controller := .request ⟨none, [], 0, none, 0⟩, line := line, holder := .result .badFrame [0x03] })))
      ∧ ((∀ bits, s.readFrame (s.port p) wave ≠ some (bits, .stopped)) → exec (.badFrame p wave) s = .next s)
      ∧ ((∀ bits, s.readFrame (s.port p) wave ≠ some (bits, .restarted)) → exec (.truncated p wave) s = .next s)

/-- FRAME_TIMEOUT and BAD_LEAD_BYTE (R143, R144, R147, R148, R151). After 25 ms without an edge the controller is IDLE; a
request frame with a complete lead byte leaves TRUNCATED, one without leaves the holder. A response frame is cut short after
the bytes that the host has acknowledged in turn, each with the effect of its acknowledge. A lead byte with bit 7 and any of
bits 6 to 1 set is not acknowledged and the controller is IDLE. Levels that spell no open frame, and a lead byte that is not
of that form, are no such event (log entry 10, the model's choice). -/
def Obligations.FramesAreCutShort : Prop :=
  ∀ (p : Port) (s : State), s.inReset = false →
    exec (.frameTimeout p []) s = .next (s.onPort p PortState.endOpenFrame)
      ∧ (∀ wave, wave ≠ [] → (∀ bits, s.readFrame (s.port p) wave ≠ some (bits, .unended)) →
        exec (.frameTimeout p wave) s = .next s)
      ∧ (∀ wave bits, wave ≠ [] → s.readFrame (s.port p) wave = some (bits, .unended) →
        (completeBytes bits = [] → exec (.frameTimeout p wave) s = .next (s.onPort p PortState.endOpenFrame))
          ∧ ∀ (lead : Byte) (rest : List Byte), completeBytes bits = lead :: rest →
            (lead.toNat < 128 →
                exec (.frameTimeout p wave) s = .next (s.onPort p fun c =>
                  { c.endOpenFrame with
                    line := ⟨true :: ((RequestFrame.withLead lead).takeAll lead rest).2, []⟩
                    holder := .result .badFrame [0x03] }))
              ∧ (lead.toNat = 128 ∨ lead.toNat = 129 →
                let acked := ((ninths bits).tail.takeWhile fun x => x.2 == some false).length
                ∃ t, exec (if lead.toNat = 128 then .resultFrame p (.opens 0) else .noticeFrame p (.opens 0)) s = .next t
                  ∧ exec (.frameTimeout p wave) s = .next (t.onPort p fun c => (t.hostAcks acked c).endOpenFrame))
              ∧ (129 < lead.toNat →
                exec (.frameTimeout p wave) s
                  = .next (s.onPort p fun c => { c.endOpenFrame with line := ⟨[false], []⟩ })))
      ∧ ∀ lead : Byte,
        exec (.badLeadByte p lead) s
          = .next (if lead.toNat < 130 then s
            else s.onPort p fun c => { c.endOpenFrame with line := ⟨[false], []⟩ })

/-- The lines of a port (R141, R142, R145). A fall of LDAn while LCKn is high is a start, a rise a stop, and a rising edge of
LCKn takes one bit. The part pulls LDAn low only for the acknowledge of a byte that it accepts and for the 0 bits of a byte
that it sends. So the levels of a host that sends a request frame on an IDLE port are read as its bytes, with the acknowledges
of R145 in the ninth bits; and a host that releases the line in a response frame reads the bytes that the part sends. -/
def Obligations.LineLevelsAreRead : Prop :=
  (∀ old new : LinkLevels,
      (linkEvent old new = .start ↔ old = ⟨true, true⟩ ∧ new = ⟨true, false⟩)
        ∧ (linkEvent old new = .stop ↔ old = ⟨true, false⟩ ∧ new = ⟨true, true⟩)
        ∧ ∀ b, linkEvent old new = .bit b ↔ old.clock = false ∧ new = ⟨true, b⟩)
    ∧ (∀ (c : PortState) (lead : Bool) (taken : Nat), taken ≤ 8 →
      (c.drives lead taken = false ↔
        (∃ f, c.controller = .request f ∧ taken = 8 ∧ c.line.acks.getLast? = some true)
          ∨ ∃ f, c.controller = .response f
            ∧ (taken = 8 ∧ lead = true ∨ taken < 8 ∧ (f.slot.byteAt f.position).getLsbD (7 - taken) = false)))
    ∧ (∀ (s : State) (c : PortState) (lead : Byte) (rest : List Byte) (ending : FrameEnd), c.controller = .idle →
      lead.msb = false →
      ∃ bits, s.readFrame c (frameLevels (bitsOfBytes (lead :: rest)) ending) = some (bits, ending)
        ∧ ninths bits = (lead :: rest).zip
          ((true :: ((RequestFrame.withLead lead).takeAll lead rest).2).map fun acked => some !acked))
    ∧ ∀ (s : State) (c : PortState) (lead : Byte) (n : Nat), c.controller = .idle → lead.toNat = 128 ∨ lead.toNat = 129 →
      let host := bitsOfByte lead ++ (List.replicate n (List.replicate 8 true ++ [false])).flatten
      ∃ bits, s.readFrame c (frameLevels host .unended) = some (bits, .unended)
        ∧ completeBytes bits = lead :: ((s.linkBits bits c.linkStart).line.sent.take n)

/-- RESULT_FRAME on a held result or an empty holder (R150, R172): the lead byte is acknowledged, and the part sends the
status, the payload length, the payload and the check byte, then filler 0xFF for as long as the host acknowledges. The
holder is not changed, and a request frame that the start cut off leaves TRUNCATED first. -/
def Obligations.ResultFrameSends : Prop :=
  ∀ (p : Port) (n : Nat) (s : State), s.inReset = false →
    (let d := (s.port p).endOpenFrame;
      (∀ cursor, d.holder ≠ .scan cursor) →
        exec (.resultFrame p (.opens n)) s = .next (s.onPort p fun _ =>
          { d with
            controller := .response ⟨.result, .held (heldContent d.holder), n, 0⟩
            line := ⟨[true], (List.range (n + 1)).map fun k => (heldContent d.holder).getD k 0xFF⟩ }))
      ∧ ∀ (content : List Byte) (k timer : Nat),
        (s.port p).controller = .response ⟨.result, .held content, k, timer⟩ →
        exec (.resultFrame p (.goesOn (n + 1))) s = .next (s.onPort p fun c =>
          { c with
            controller := .response ⟨.result, .held content, k + n + 1, 0⟩
            line := { c.line with
              sent := c.line.sent ++ (List.range (n + 1)).map fun j => content.getD (k + 1 + j) 0xFF } })

/-- RESULT_FRAME on a scan stream (R15, R16, R17, R18, R152): the status SCAN, then block by block, one act taking up where
the one before it ended. The next block is taken at its first byte: with the end reason set, the end block; else the first record that is not UNWRITTEN among the positions
remaining from next in the scan's direction; with none, the end block with LAP, which sets the end reason. -/
def Obligations.ScanStreamSends : Prop :=
  ∀ (p : Port) (cursor : ScanCursor) (s : State), s.inReset = false →
    (∀ (n : Nat) (t : State), exec (.resultFrame p (.opens 0)) s = .next t →
        exec (.resultFrame p (.opens n)) s = exec (.resultFrame p (.goesOn n)) t)
      ∧ (∀ (m n : Nat) (t : State), exec (.resultFrame p (.goesOn m)) s = .next t →
        exec (.resultFrame p (.goesOn (m + n))) s = exec (.resultFrame p (.goesOn n)) t)
      ∧ (let d := (s.port p).endOpenFrame;
        d.holder = .scan cursor →
          exec (.resultFrame p (.opens 0)) s = .next (s.onPort p fun _ =>
            { d with controller := .response ⟨.result, .scanStatus, 0, 0⟩, line := ⟨[true], [0x04]⟩ }))
      ∧ ∀ (slot : Slot) (n k timer : Nat), (s.port p).holder = .scan cursor →
        (s.port p).controller = .response ⟨.result, slot, k, timer⟩ →
        slot = .scanStatus ∧ n = 1 ∨ slot = .notTaken ∧ n = 0 →
        let lap := (scanLap cursor.range cursor.direction cursor.next).take cursor.remaining
        let begins := fun (next : Slot) (content : List Byte) (cursor : ScanCursor) => s.onPort p fun c =>
          { c with
            holder := .scan cursor
            controller := .response ⟨.result, next, 0, 0⟩
            line := { c.line with sent := c.line.sent ++ [content.headD 0xFF] } }
        (∀ e, cursor.endReason = some e →
            exec (.resultFrame p (.goesOn n)) s = .next (begins (.scanEnd (endBlock e)) (endBlock e) cursor))
          ∧ (cursor.endReason = none → (∀ r ∈ lap, s.record (tableNo r) = .unwritten) →
            exec (.resultFrame p (.goesOn n)) s
              = .next (begins (.scanEnd (endBlock .lap)) (endBlock .lap) { cursor with endReason := some .lap }))
          ∧ ∀ before r after, cursor.endReason = none → lap = before ++ r :: after →
            (∀ x ∈ before, s.record (tableNo x) = .unwritten) → s.record (tableNo r) ≠ .unwritten →
            let content := s.recordBytes r ++ [checkByte (s.recordBytes r)]
            exec (.resultFrame p (.goesOn n)) s = .next (begins (.scanRecord r before.length content) content cursor)

/-- SCAN_BLOCK_DELIVERED (R15, R16, R18): the acknowledge of a record block's check byte moves next to the position after the
block's record and takes the positions examined off those remaining; that of the end block moves nothing. The slot after
it is taken when the host goes on, from the state at that event (the operand that says so is log entry 15). That an
acknowledge of another byte or slot is no such event is log entry 10, the model's choice. -/
def Obligations.ScanBlockMovesCursor : Prop :=
  ∀ (p : Port) (cursor : ScanCursor) (channel : Channel) (slot : Slot) (k timer : Nat) (s : State), s.inReset = false →
    (s.port p).holder = .scan cursor → (s.port p).controller = .response ⟨channel, slot, k, timer⟩ →
    let delivered := fun (cursor : ScanCursor) => s.onPort p fun c =>
      { c with holder := .scan cursor, controller := .response ⟨.result, .notTaken, 0, 0⟩ }
    let becomes := fun (t : State) =>
      exec (.scanBlockDelivered p false) s = .next t
        ∧ exec (.scanBlockDelivered p true) s = exec (.resultFrame p (.goesOn 0)) t
    (∀ r steps content, slot = .scanRecord r steps content → k + 1 = content.length →
        becomes (delivered { cursor with
          next := scanAfter cursor.range cursor.direction r, remaining := cursor.remaining - (steps + 1) }))
      ∧ (∀ content, slot = .scanEnd content → k + 1 = content.length → becomes (delivered cursor))
      ∧ ((∀ r steps content, slot = .scanRecord r steps content → k + 1 ≠ content.length) →
        (∀ content, slot = .scanEnd content → k + 1 ≠ content.length) →
        ∀ goesOn, exec (.scanBlockDelivered p goesOn) s = .next s)

/-- NOTICE_FRAME and NOTICE_ENTRY_DELIVERED (R134, R153, R174): the frame sends the thirteen bytes of the queue's head, or of
the end entry while the queue is empty, as far as the host acknowledges them; only the acknowledge of the check byte of an
entry removes the head, and that of the end entry removes nothing. The next slot is taken when the host goes on. That the
acknowledge of a check byte is a command of its own, so that thirteen or more acknowledges in one act give twelve, is log
entry 15, the model's choice. -/
def Obligations.NoticeFrameSends : Prop :=
  ∀ (p : Port) (s : State), s.inReset = false →
    (∀ n : Nat,
        let d := (s.port p).endOpenFrame
        (noticeContent d.notices).length = 13
          ∧ exec (.noticeFrame p (.opens n)) s = .next (s.onPort p fun _ =>
            { d with
              controller := .response ⟨.notice, noticeSlot d.notices, min n 12, 0⟩
              line := ⟨[true], (noticeContent d.notices).take (min n 12 + 1)⟩ }))
      ∧ ∀ (channel : Channel) (slot : Slot) (k timer : Nat),
        (s.port p).controller = .response ⟨channel, slot, k, timer⟩ →
        let becomes := fun (left : List Notice) =>
          let t := s.onPort p fun c =>
            { c with notices := left, controller := .response ⟨.notice, .notTaken, 0, 0⟩ }
          exec (.noticeEntryDelivered p false) s = .next t
            ∧ exec (.noticeEntryDelivered p true) s = exec (.noticeFrame p (.goesOn 0)) t
        (∀ content, slot = .notice content → k + 1 = content.length → becomes ((s.port p).notices.drop 1))
          ∧ (∀ content, slot = .noticeEnd content → k + 1 = content.length → becomes (s.port p).notices)
          ∧ (channel = .notice → slot = .notTaken → ∀ n : Nat,
            exec (.noticeFrame p (.goesOn n)) s = .next (s.onPort p fun c =>
              { c with
                controller := .response ⟨.notice, noticeSlot c.notices, min n 12, 0⟩
                line := { c.line with sent := c.line.sent ++ (noticeContent c.notices).take (min n 12 + 1) } }))

/-- Acts in a response frame (R151): a byte that is not acknowledged, or a stop, ends the frame and the controller is IDLE;
a repeated start opens a new frame; acknowledges within a slot send its next bytes. Holder, cursor and notice queue stay. The
acknowledge of whichever byte is being sent is a delivery for the check byte of a block or slot, else an act of one byte. That
acts on a channel that no frame is open on pass unheeded is R143 for IDLE and log entry 10, the model's choice, for a frame of
another kind. -/
def Obligations.ResponseFrameActs : Prop :=
  ∀ (p : Port) (channel : Channel) (s : State), s.inReset = false →
    let act := fun (a : ResponseAct) => exec (match channel with
      | .result => .resultFrame p a
      | .notice => .noticeFrame p a) s
    ((∀ slot k timer, (s.port p).controller ≠ .response ⟨channel, slot, k, timer⟩) →
        ∀ a, (∀ n, a ≠ .opens n) → act a = .next s)
      ∧ ∀ slot k timer, (s.port p).controller = .response ⟨channel, slot, k, timer⟩ →
        act .stop = .next (s.onPort p fun c => { c with controller := .idle })
          ∧ act .notAck = .next (s.onPort p fun c => { c with controller := .idle })
          ∧ act .repeatedStart
            = .next (s.onPort p fun c => { c with controller := .request ⟨none, [], 0, none, 0⟩ })
          ∧ (∀ (content : List Byte) (n : Nat),
            (∃ r j, slot = .scanRecord r j content) ∨ slot = .scanEnd content ∨ slot = .notice content
              ∨ slot = .noticeEnd content →
            k + n + 1 < content.length →
            act (.goesOn (n + 1)) = .next (s.onPort p fun c =>
              { c with
                controller := .response ⟨channel, slot, k + n + 1, 0⟩
                line := { c.line with sent := c.line.sent ++ (content.drop (k + 1)).take (n + 1) } }))
          ∧ (let acknowledged := Host.Outcome.next (s.onPort p s.hostAck);
            let atCheck := fun (content : List Byte) => k + 1 = content.length;
            ((∃ r j content, slot = .scanRecord r j content ∧ atCheck content)
                  ∨ (∃ content, slot = .scanEnd content ∧ atCheck content) →
                exec (.scanBlockDelivered p true) s = acknowledged)
              ∧ ((∃ content, (slot = .notice content ∨ slot = .noticeEnd content) ∧ atCheck content) →
                exec (.noticeEntryDelivered p true) s = acknowledged)
              ∧ (slot ≠ .notTaken → (∀ r j content, slot = .scanRecord r j content → ¬atCheck content) →
                (∀ content, slot = .scanEnd content ∨ slot = .notice content ∨ slot = .noticeEnd content →
                  ¬atCheck content) →
                act (.goesOn 1) = acknowledged))

/-- A notice joins the tail of its port's queue with its loss mark clear while the queue holds fewer than 16 entries; at 16
it is discarded and the tail's loss mark is set (R127); a port's NOTIFY line is asserted exactly when its queue is not
empty (R136). -/
def Obligations.NoticesAppend : Prop :=
  (∀ (s : State) (p : Port) (body : NoticeBody),
      (s.notify p body).ports = s.ports.set p { s.port p with notices := appendNotice body (s.port p).notices })
    ∧ (∀ (body : NoticeBody) (queue : List Notice), queue.length < 16 →
      appendNotice body queue = queue ++ [⟨body, false⟩])
    ∧ (∀ (body : NoticeBody) (init : List Notice) (tail : Notice), 16 ≤ init.length + 1 →
      appendNotice body (init ++ [tail]) = init ++ [⟨tail.body, true⟩])
    ∧ ∀ (s : State) (p : Port), s.notifyAsserted p = true ↔ (s.port p).notices ≠ []

/-! ## Reset, mount, power fail -/

/-- DEVICE_RESET, RESET_RELEASE and the part in device reset (R21, R82, R83, R84, R163, Table 19). Device reset loses all
volatile state; the page of an operation in progress is left as the cut-off gives, and no other page changes; service flags
and pins stay (R163; that the service flags stay is log entry 17). The release samples the straps: with SVCEN the port that
SVCSEL1, SVCSEL0 names is service, no other; the store is MOUNTING and the mount begins. A release of a part not in reset is
no event (log entry 10). In device reset the ports take part in no transfer and no tick comes: each command of a port and of
the timebase leaves the state (R82; log entry 10). -/
def Obligations.ResetLosesVolatile : Prop :=
  (∀ (cut : CutOff) (s : State), ∃ ports array,
      exec (.deviceReset cut) s
          = .next
            { ports := ports, records := .fill 129 .unwritten, windows := .fill 16 none
              leases := .fill 16 ⟨none, []⟩, queue := [], pages := .fill 320 .stale
              pointer := 0, badCount := 0, nextSequence := 1, census := [], array := array, store := .mounting
              recovered := false, hold := false, job := .idle, op := none, inReset := true, pfw := s.pfw
              straps := s.straps, pending := s.pending }
        ∧ (∀ p, ports.get p
          = { txn := .none, staging := .records [], tokenCounter := 0, lastOutcome := ⟨none, .none, none⟩
              holder := .empty, watch := .fill 17 false, service := (s.port p).service, notices := []
              controller := .idle, line := ⟨[], []⟩ })
        ∧ ∀ g, array.get g = match s.op with
          | none => s.array.get g
          | some (.program h i) =>
            if g = h then
              match cut with
              | .blank => .blank
              | .damaged => .damaged
              | .disturbed check => .programmed ⟨i.header, i.payload, check⟩
              | .image => .programmed i
              | .retired => .retired
            else s.array.get g
          | some (.erase h) =>
            if g = h then
              match cut with
              | .blank => .blank
              | .damaged => .damaged
              | .disturbed _ => .damaged
              | .image => s.array.get g
              | .retired => .retired
            else s.array.get g)
    ∧ (∀ (c : Instr) (s : State), s.inReset = true →
      (portOf c).isSome ∨ c = .leaseTick ∨ (∃ w, c = .leaseExpiry w) → exec c s = .next s)
    ∧ ∀ (svcen svcsel1 svcsel0 : Bool) (s : State),
      (s.inReset = false → exec (.resetRelease svcen svcsel1 svcsel0) s = .next s)
        ∧ (s.inReset = true → ∃ ports,
          exec (.resetRelease svcen svcsel1 svcsel0) s
              = .next { s with
                  ports := ports, straps := ⟨svcen, svcsel1, svcsel0⟩, inReset := false, store := .mounting
                  job := .mount }
            ∧ ∀ p, ports.get p
              = { s.port p with
                  service := svcen && p == (if svcsel1 then if svcsel0 then 3 else 2 else if svcsel0 then 1 else 0) })

/-- MOUNT_END (R21, R25, R34, R86, R89, R92, R93). It changes no page of the array. BLANK, RETIRED and DAMAGED pages, one whose
check disagrees among them, are CLEAN, BAD and STALE; the bad count is the number of RETIRED pages; pointer and next sequence
follow the VALID page of highest sequence, then highest position, then highest number. With an EPOCH page the store is
FORMATTING with every record UNWRITTEN, and the format resumes past the EPOCH page of highest sequence (of one sequence, the
higher page: log entry 19) with the erase of the first page that is not CLEAN, not BAD and not that page; else the store is
READY, or READ_ONLY with MEDIA over 32 BAD pages. Every port gets STORE_STATE. Outside a mount it is no event (log entry 10). -/
def Obligations.MountEnds : Prop :=
  ∀ s : State,
    (¬(s.inReset = false ∧ s.job = .mount) → exec .mountEnd s = .next s)
      ∧ (s.inReset = false → s.job = .mount → ∃ t, exec .mountEnd s = .next t
        ∧ t = { s with
            ports := t.ports, records := t.records, windows := t.windows, pages := t.pages, pointer := t.pointer
            badCount := t.badCount, nextSequence := t.nextSequence, census := t.census, store := t.store
            recovered := t.recovered, job := t.job, op := t.op }
        ∧ (∀ p, t.port p
          = { s.port p with notices := appendNotice (.storeState t.store) (s.port p).notices })
        ∧ (∀ g, (s.array.get g = .blank → t.page g = .clean) ∧ (s.array.get g = .retired → t.page g = .bad)
          ∧ (s.array.get g = .damaged → t.page g = .stale)
          ∧ ∀ i, s.array.get g = .programmed i → ¬ReadsValid s.array g i → t.page g = .stale)
        ∧ t.badCount = (allPages.filter fun g => s.array.get g = .retired).length
        ∧ ((∀ g i, ¬ReadsValid s.array g i) → t.nextSequence = 1 ∧ t.pointer = 0)
        ∧ ((∃ g i, ReadsValid s.array g i) → ∃ h j, ReadsValid s.array h j
          ∧ t.nextSequence = j.header.sequence + 1 ∧ t.pointer = h + 1
          ∧ ∀ g i, ReadsValid s.array g i →
            i.header.sequence.toNat < j.header.sequence.toNat
              ∨ i.header.sequence = j.header.sequence
                ∧ (i.header.position < j.header.position ∨ i.header.position = j.header.position ∧ g ≤ h))
        ∧ ((∃ g i, ReadsValid s.array g i ∧ i.header.kind = .epoch) → ∃ e j, ReadsValid s.array e j ∧ j.header.kind = .epoch
          ∧ (∀ g i, ReadsValid s.array g i → i.header.kind = .epoch →
            i.header.sequence.toNat < j.header.sequence.toNat ∨ i.header.sequence = j.header.sequence ∧ g ≤ e)
          ∧ t.store = .formatting ∧ (∀ r, t.record r = .unwritten) ∧ t.windows = .fill 16 none ∧ t.census = []
          ∧ t.recovered = true ∧ (∀ g i, ReadsValid s.array g i → t.page g = .stale)
          ∧ (let erases := fun (g : PageNo) => if s.pfw then none else some (PageOp.erase g);
            (∀ g, s.array.get g ≠ .blank → s.array.get g ≠ .retired → g ≠ e →
                (∀ h < g, s.array.get h = .blank ∨ s.array.get h = .retired ∨ h = e) →
                t.job = .format (.sweep 0 (some e)) [] ∧ t.op = erases g)
              ∧ ((∀ g, s.array.get g = .blank ∨ s.array.get g = .retired ∨ g = e) →
                t.job = .format (.eraseEpoch e) [] ∧ t.op = erases e)))
        ∧ ((∀ g i, ReadsValid s.array g i → i.header.kind ≠ .epoch) →
          t.store = (if 32 < t.badCount then .readOnly .media else .ready) ∧ t.job = .idle ∧ t.op = none))

/-- What a mount restores without an EPOCH page (R65, R87, R90, R91, R92): a record is backed by a page exactly when that page
holds it in the complete group of highest sequence among the complete groups that hold it, and its entry is that page's image; a
page is LIVE exactly when it backs a record, and RETAINED exactly when it is another page of a complete group with a LIVE
page, both with the header read; the Census holds, in increasing order of sequence, exactly the complete groups with a LIVE
page, with their pages in position order; the Window Table is the list of the layout record; and the recovered flag is set
exactly when a page is DAMAGED, a LAYOUT page's list does not decode, or a candidate's group is incomplete. -/
def Obligations.MountRestoresRecords : Prop :=
  ∀ s t : State, s.inReset = false → s.job = .mount → (∀ g i, ReadsValid s.array g i → i.header.kind ≠ .epoch) →
    exec .mountEnd s = .next t →
    (∀ (r : RecordNo) (g : PageNo) (q : Sequence),
        (t.record r).backing = some (g, q) ↔
          (∃ group i, CompleteGroup s.array q group ∧ (g, i) ∈ group ∧ i.header.record = some r)
            ∧ ∀ q' group, CompleteGroup s.array q' group → (∃ x ∈ group, x.2.header.record = some r) →
              q'.toNat ≤ q.toNat)
      ∧ (∀ r g q i, (t.record r).backing = some (g, q) → s.array.get g = .programmed i → t.record r = i.entry g)
      ∧ (∀ g, (t.page g).isLive = true ↔ ∃ r q, (t.record r).backing = some (g, q))
      ∧ (∀ g, (t.page g).isRetained = true ↔ (t.page g).isLive = false
        ∧ ∃ q group, CompleteGroup s.array q group ∧ g ∈ group.map Prod.fst
          ∧ ∃ x ∈ group, (t.page x.1).isLive = true)
      ∧ (∀ g h, (t.page g).header = some h → ∃ i, s.array.get g = .programmed i ∧ h = i.header)
      ∧ ((t.census.map CensusEntry.sequence).Pairwise fun x y => x.toNat < y.toNat)
      ∧ (∀ q pages, ⟨q, pages⟩ ∈ t.census ↔ ∃ group, CompleteGroup s.array q group
        ∧ (∃ x ∈ group, (t.page x.1).isLive = true) ∧ pages = group.map fun x => ⟨x.1, (t.page x.1).isLive⟩)
      ∧ t.windows = layoutOf (t.record Config.layoutRecord)
      ∧ (t.recovered = true ↔
        (∃ g, s.array.get g = .damaged ∨ ∃ i, s.array.get g = .programmed i ∧ ¬ReadsValid s.array g i)
          ∨ ∃ g i, ReadsValid s.array g i
            ∧ ((∃ l, i.payload = .layout l ∧ Layout.valid l = false)
              ∨ ∀ group, ¬CompleteGroup s.array i.header.sequence group))

/-- PFW_ASSERT, HOLD_TAKES_EFFECT and PFW_DEASSERT (R96, R97, R98). The assertion is noted. The HOLD flag is set when no page
operation is in progress and the store is not MOUNTING. The deassertion clears it, and a suspended job goes on with its
next step: the next image of a commit or relocation is allocated and issued, an erase is issued, a format goes on. That the
assertion by itself sets no HOLD flag is log entry 7, and that a deassertion with no job makes no choice and begins no format
is log entries 6 and 8: those steps are commands of their own, the model's choice. -/
def Obligations.PowerFailHolds : Prop :=
  ∀ s : State,
    exec .pfwAssert s = .next { s with pfw := true }
      ∧ exec .holdTakesEffect s
        = .next (if s.pfw = true ∧ s.op = none ∧ s.store ≠ .mounting ∧ s.inReset = false then { s with hold := true }
          else s)
      ∧ (s.op ≠ none ∨ s.job = .idle ∨ s.job = .mount →
        exec .pfwDeassert s = .next { s with pfw := false, hold := false })
      ∧ (s.op = none →
        let u := { s with pfw := false, hold := false }
        (∀ g, s.job = .erase g → exec .pfwDeassert s = .next { u with op := some (.erase g) })
          ∧ (∀ p token staging run image, s.job = .commit p token staging run →
            run.images[run.verified.length]? = some image →
            exec .pfwDeassert s = .next (u.issues image (u.commitMediaFailure p token)))
          ∧ (∀ target run image, s.job = .relocate target run → run.images[run.verified.length]? = some image →
            exec .pfwDeassert s = .next (u.issues image u.relocationMediaFailure))
          ∧ (∀ q failures noted, s.job = .format (.epoch q failures) noted →
            exec .pfwDeassert s = .next (u.epochAttempt q failures noted))
          ∧ (∀ next epochPage noted, s.job = .format (.sweep next epochPage) noted →
            exec .pfwDeassert s = .next (u.sweep next epochPage noted))
          ∧ ∀ g noted, s.job = .format (.eraseEpoch g) noted →
            exec .pfwDeassert s = .next { u with op := some (.erase g) })

/-! ## The engine -/

/-- Allocation (R24): the page found is CLEAN, and of the CLEAN pages the first met from the pointer upward, page 0 after
page 319; none is found exactly when no page is CLEAN. The STALE page to erase is the one of lowest number (R71). -/
def Obligations.AllocationSearches : Prop :=
  (∀ (s : State) (g : PageNo),
      s.findClean = some g ↔
        (s.page g).isClean = true ∧ ∀ h, (s.page h).isClean = true → (g - s.pointer).val ≤ (h - s.pointer).val)
    ∧ (∀ s : State, s.findClean = none ↔ ∀ g, (s.page g).isClean = false)
    ∧ ∀ (s : State) (g : PageNo),
      s.lowestStale = some g ↔ (s.page g).isStale = true ∧ ∀ h < g, (s.page h).isStale = false

/-- The pin rule (R67): a superseded page whose transaction has another LIVE page is RETAINED with its header fields; as the
last LIVE page of its transaction, it and every page of the transaction are STALE and the Census entry is gone. Nothing
else changes. -/
def Obligations.PinRule : Prop :=
  ∀ (s : State) (before after : List CensusEntry) (q : Sequence) (pages : List CensusPage) (g : PageNo) (h : Header),
    s.census = before ++ ⟨q, pages⟩ :: after → (∀ e ∈ before ++ after, e.sequence ≠ q) →
    ⟨g, true⟩ ∈ pages → s.page g = .live h →
    if ∃ x ∈ pages, x.live = true ∧ x.page ≠ g then
      s.supersede g q
        = { s with
            pages := s.pages.set g (.retained h)
            census := before ++ ⟨q, pages.map fun x => if x.page = g then ⟨g, false⟩ else x⟩ :: after }
    else
      ∃ table, s.supersede g q = { s with pages := table, census := before ++ after }
        ∧ ∀ k, table.get k = if k ∈ pages.map CensusPage.page then .stale else s.page k

/-- JOB_CHOICE with an empty queue (R69, R71, R73, R74, R75, Table 17): the STALE page of lowest number is erased; with
none and fewer than 24 CLEAN pages the first Census entry that may be a target is relocated; else the engine is idle. An
engine that may not choose does nothing; with PFW asserted together no page operation is issued (R98, log entry 22). -/
def Obligations.EngineChoosesJob : Prop :=
  ∀ (together : Bool) (s : State),
    (¬s.FreeToChoose → exec (.jobChoice together) s = .next { s with pfw := s.pfw || together })
      ∧ (s.FreeToChoose → s.queue = [] →
        let u := { s with pfw := together }
        (∀ g, s.lowestStale = some g →
            exec (.jobChoice together) s
              = .next { u with job := .erase g, op := if together then none else some (.erase g) })
          ∧ (s.lowestStale = none → 24 ≤ s.cleanCount ∨ (∀ e ∈ s.census, ¬s.Relocatable e) →
            exec (.jobChoice together) s = .next { u with op := none })
          ∧ ∀ before e after, s.lowestStale = none → s.cleanCount < 24 → s.census = before ++ e :: after →
            (∀ x ∈ before, ¬s.Relocatable x) → s.Relocatable e →
            (∀ x ∈ e.pages, x.live = true → (s.page x.page).isLive = true) → 1 ≤ e.live →
            ∃ t, exec (.jobChoice together) s = .next t ∧ u.RelocationBegins e t)

/-- Validation at a commit's start (R52, R120): the first failure ends it. For record entries, in staging order: POLICY in a
FROZEN area, LEASE_LOST without the lease of a LEASED one, CONFLICT for an expected version that is not the record's. For a
DEFINE: OVERLAP, then NOT_SERVICE if the window is FROZEN and the port's flag clear, then HELD; for a CLEAR of a defined
window the last two. -/
def Obligations.ValidationFindsFirstFailure : Prop :=
  ∀ (s : State) (p : Port) (token : Token),
    let frozen : WindowNo → Bool := fun w => match s.windows.get w with
      | some d => d.policy == .frozen
      | none => false
    let named : WindowNo → Option (FailReason × Option HostRecord) := fun w =>
      if frozen w = true ∧ (s.port p).service = false then some (.notService, none)
      else if (s.lease w).held.isSome then some (.held, none)
      else none
    (∀ es, s.validate ⟨p, token, .records es⟩ = es.findSome? fun x =>
        let conflict := match x.expected with
          | none => none
          | some v =>
            if v = (s.record (tableNo x.record)).version then none else some (FailReason.conflict, some x.record)
        match policyOf s.windows (areaOf s.windows x.record), windowOfArea (areaOf s.windows x.record) with
        | .frozen, _ => some (.policy, none)
        | .leased _, some w => if s.holds p w then conflict else some (.leaseLost, none)
        | _, _ => conflict)
      ∧ ∀ w,
        (∀ d, s.validate ⟨p, token, .define w d⟩
            = if allWindows.any (fun v => v != w && match s.windows.get v with
                | some o => decide (d.base < o.base + o.size) && decide (o.base < d.base + d.size)
                | none => false) then
                some (.overlap, none)
              else named w)
          ∧ s.validate ⟨p, token, .clear w⟩ = if (s.windows.get w).isSome then named w else none

/-- JOB_CHOICE with a queue (R35, R53, R54, R55, R70, R72): a head that fails validation ends with its reason and the next is
taken up at once; a valid head that fits with 8 CLEAN pages to spare takes the next sequence, leaves the queue, is RUNNING,
and has its images fixed in staging order with each record's next version, the first being issued; one that does not fit
waits for an erase or a relocation, or the store enters READ_ONLY with SPACE. With PFW asserted together the job starts and
issues no operation (R98; log entry 22, the model's choice). -/
def Obligations.QueueHeadIsTakenUp : Prop :=
  ∀ (together : Bool) (s : State) (e : QueueEntry) (rest : List QueueEntry), s.FreeToChoose → s.queue = e :: rest →
    (∀ x ∈ rest, x.port ≠ e.port) →
    let u := { s with pfw := together }
    let q := s.nextSequence
    let next : RecordNo → Option Version := fun r =>
      some (if (s.record r).version = 0xFFFF then 1 else (s.record r).version + 1)
    let layoutImage : Layout → PageImage := fun l =>
      .checked ⟨.layout, some 128, next 128, q, 1, 1, false⟩ (.layout l)
    let images : List PageImage := match e.staging with
      | .records es => es.zipIdx.map fun x =>
        match x.1.op with
        | .write data =>
          .checked ⟨.data, some (tableNo x.1.record), next (tableNo x.1.record), q, x.2 + 1, es.length, false⟩ (.bytes data)
        | .delete =>
          .checked ⟨.tombstone, some (tableNo x.1.record), next (tableNo x.1.record), q, x.2 + 1, es.length, false⟩ .none
      | .define w d => [layoutImage (s.windows.set w (some d))]
      | .clear w => [layoutImage (s.windows.set w none)]
    let starts : State := State.onPort
      { u with nextSequence := q + 1, queue := rest, job := .commit e.port e.token e.staging ⟨q, images, [], 0⟩ }
      e.port fun c => { c with txn := .running }
    (∀ reason record, s.validate e = some (reason, record) →
        exec (.jobChoice together) s = exec (.jobChoice together) (s.failQueued e reason record true))
      ∧ (s.validate e = none →
        (e.staging.count + 8 ≤ s.cleanCount →
            (q = 0xFFFFFFFF → exec (.jobChoice together) s = .next (u.enterReadOnly .sequence))
              ∧ ∀ image, q ≠ 0xFFFFFFFF → images.head? = some image →
                exec (.jobChoice together) s
                  = .next (starts.issues image (starts.commitMediaFailure e.port e.token)))
          ∧ (s.cleanCount < e.staging.count + 8 →
            (∀ g, s.lowestStale = some g →
                exec (.jobChoice together) s
                  = .next { u with job := .erase g, op := if together then none else some (.erase g) })
              ∧ (s.lowestStale = none → (∀ x ∈ s.census, ¬s.Relocatable x) →
                exec (.jobChoice together) s = .next (u.enterReadOnly .space))
              ∧ ∀ before x after, s.lowestStale = none → s.census = before ++ x :: after →
                (∀ y ∈ before, ¬s.Relocatable y) → s.Relocatable x →
                (∀ y ∈ x.pages, y.live = true → (s.page y.page).isLive = true) → 1 ≤ x.live →
                ∃ t, exec (.jobChoice together) s = .next t ∧ u.RelocationBegins x t))

/-- PAGE_PROGRAM_VERDICT short of the last position (R26, R27, R56, R57, R58, R76, R78). A passed page holds its image and
its header fields, and the next position is issued with its retries at 0; a failed page is retired and the same image is
issued again, up to two times, after which the job gives up. Without a program in progress there is no verdict (log entry
10). -/
def Obligations.ProgramVerdictGoesOn : Prop :=
  ∀ s : State,
    ((∀ g i, s.op ≠ some (.program g i)) → ∀ verdict, exec (.pageProgramVerdict verdict) s = .next s)
      ∧ ∀ g i run, s.op = some (.program g i) →
        let onward : ImageRun := ⟨run.sequence, run.images, run.verified ++ [g], 0⟩
        let again : ImageRun := ⟨run.sequence, run.images, run.verified, run.retries + 1⟩
        (∀ p token staging, s.job = .commit p token staging run →
            (∀ image, run.images[run.verified.length + 1]? = some image →
                let u := { s.verified g i with job := .commit p token staging onward }
                exec (.pageProgramVerdict .pass) s = .next (u.issues image (u.commitMediaFailure p token)))
              ∧ ∀ mark,
                (∀ image, run.retries < 2 → run.images[run.verified.length]? = some image →
                    let u := { s.failedProgram g mark with job := .commit p token staging again }
                    exec (.pageProgramVerdict (.fail mark)) s = .next (u.issues image (u.commitMediaFailure p token)))
                  ∧ (2 ≤ run.retries →
                    exec (.pageProgramVerdict (.fail mark)) s
                      = .next ((s.failedProgram g mark).commitMediaFailure p token)))
          ∧ ∀ target, s.job = .relocate target run →
            (∀ image, run.images[run.verified.length + 1]? = some image →
                let u := { s.verified g i with job := .relocate target onward }
                exec (.pageProgramVerdict .pass) s = .next (u.issues image u.relocationMediaFailure))
              ∧ ∀ mark,
                (∀ image, run.retries < 2 → run.images[run.verified.length]? = some image →
                    let u := { s.failedProgram g mark with job := .relocate target again }
                    exec (.pageProgramVerdict (.fail mark)) s = .next (u.issues image u.relocationMediaFailure))
                  ∧ (2 ≤ run.retries →
                    exec (.pageProgramVerdict (.fail mark)) s
                      = .next (s.failedProgram g mark).relocationMediaFailure)

/-- A job that gives up (R30, R58, R78), and READ_ONLY (R32, R51, R160). Every PENDING page is STALE and the engine is free;
a commit's port is NONE with outcome MEDIA and COMMIT_FAILED, and its freeze ends; a READY store with more than 32 BAD pages
enters READ_ONLY with MEDIA. The store that enters READ_ONLY tells every port, and each queued commit ends with READ_ONLY,
its COMMIT_FAILED behind the STORE_STATE, and its freeze ends. -/
def Obligations.JobsGiveUp : Prop :=
  ∀ s : State,
    let dropped : Table PageEntry 320 := Table.build 320 fun g => if (s.page g).isPending then .stale else s.page g
    s.relocationMediaFailure = State.settled { s with pages := dropped, job := .idle, op := none }
      ∧ (∀ p token, s.commitMediaFailure p token
        = State.settled { s with
            pages := dropped, job := .idle, op := none, leases := s.leasesThawed p
            ports := s.ports.set p { s.port p with
              txn := .none, staging := .records [], lastOutcome := ⟨some token, .failed .media, none⟩
              notices := appendNotice (.commitFailed token .media none) (s.port p).notices } })
      ∧ ((s.queue.map QueueEntry.port).Nodup → ∀ reason, ∃ ports leases,
        s.enterReadOnly reason
            = { s with store := .readOnly reason, queue := [], ports := ports, leases := leases }
          ∧ (∀ p,
            let told := appendNotice (.storeState (.readOnly reason)) (s.port p).notices
            ports.get p = match s.queue.find? fun e => e.port = p with
              | none => { s.port p with notices := told }
              | some e =>
                { s.port p with
                  txn := .none, staging := .records [], lastOutcome := ⟨some e.token, .failed .readOnly, none⟩
                  notices := appendNotice (.commitFailed e.token .readOnly none) told })
          ∧ ∀ w, leases.get w = match (s.lease w).held with
            | none => s.lease w
            | some h =>
              if h.frozen = true ∧ ∃ e ∈ s.queue, e.port = h.port then
                ⟨some ⟨h.port, s.leaseTime w, false⟩, (s.lease w).waiters⟩
              else s.lease w)

/-- The commit point of a record commit (R5, R6, R8, R30, R32, R33, R49, R59, R60, R66, R67, R68, R113, R130): at the pass of
the last position every record of the commit switches to its image on its page, in one event, and no other record; those pages
are LIVE with their headers, each former page goes by the pin rule, and the Census takes the entry; the port is NONE with
outcome DONE, token and sequence, and gets COMMIT_DONE; each other port gets one CHANGED for each area it watches that holds a
record of the commit, in increasing area number, with the lowest record and the count; the freeze ends; the engine is free.
Then a READY store with more than 32 BAD pages enters READ_ONLY with MEDIA. -/
def Obligations.CommitPointOfRecords : Prop :=
  ∀ (s : State) (g : PageNo) (i : PageImage) (p : Port) (token : Token) (es : List StagedEntry) (run : ImageRun),
    s.op = some (.program g i) → s.job = .commit p token (.records es) run →
    run.images.length = run.verified.length + 1 → s.DirectoryConsistent →
    ∃ u : State, exec (.pageProgramVerdict .pass) s = .next u.settled
      ∧ u = { s with
          ports := u.ports, records := u.records, pages := s.pagesAfter run (run.verified ++ [g])
          census := s.censusAfter run (run.verified ++ [g]), job := .idle, op := none
          array := s.array.set g (.programmed i), leases := s.leasesThawed p }
      ∧ (∀ r, (∀ x ∈ run.images, x.header.record ≠ some r) → u.record r = s.record r)
      ∧ (∀ (k : Nat) (image : PageImage) page r, run.images[k]? = some image → (run.verified ++ [g])[k]? = some page →
        image.header.record = some r → u.record r = image.entry page)
      ∧ u.port p
        = { s.port p with
            txn := .none, staging := .records [], lastOutcome := ⟨some token, .done, some run.sequence⟩
            notices := appendNotice (.commitDone token es.length run.sequence) (s.port p).notices }
      ∧ ∀ o, o ≠ p →
        let changed : List NoticeBody := (allAreas.filter fun a => (s.port o).watch.get a).filterMap fun a =>
          let mine := (es.map StagedEntry.record).filter fun r => areaOf s.windows r == a
          mine.min?.map fun r => .changed a r mine.length p run.sequence
        u.port o = { s.port o with notices := changed.foldl (fun l b => appendNotice b l) (s.port o).notices }

/-- The commit point of a layout commit (R17, R32, R59, R60, R66, R67, R121, R122, R131, R138): the layout record and the
Window Table take the list on the page, which is LIVE with its header, the record's former page goes by the pin rule, and the
Census takes the entry; the port gets COMMIT_DONE, every other port LAYOUT_CHANGED; area scans end with LAYOUT; a CLEAR drops
the window from every watch set; the window's lease is kept if it is LEASED now, else revoked with LEASE_REVOKED and the
wait list emptied. Then a READY store with more than 32 BAD pages enters READ_ONLY with MEDIA. -/
def Obligations.CommitPointOfLayout : Prop :=
  ∀ (s : State) (g : PageNo) (i : PageImage) (p : Port) (token : Token) (w : WindowNo) (defined : Option WindowDef)
    (run : ImageRun) (list : Layout),
    s.op = some (.program g i) →
    s.job = .commit p token (match defined with
      | some d => .define w d
      | none => .clear w) run →
    run.images = [i] → run.verified = [] → i.header.kind = .layout → i.header.record = some 128 →
    i.header.relocated = false → i.payload = .layout list → s.DirectoryConsistent →
    let stays : Bool := match list.get w with
      | some d => match d.policy with
        | .leased _ => true
        | .openWrite => false
        | .frozen => false
      | none => false
    let reason : LayoutReason := if defined.isSome then .define else .clear
    let settled : LeaseState := if stays then s.lease w
      else match (s.lease w).held with
        | some _ => ⟨none, []⟩
        | none => s.lease w
    ∃ u : State, exec (.pageProgramVerdict .pass) s = .next u.settled
      ∧ u = { s with
          ports := u.ports, records := u.records, pages := s.pagesAfter run [g], census := s.censusAfter run [g]
          job := .idle, op := none
          array := s.array.set g (.programmed i), windows := list
          leases := ({ s.setLease w settled with windows := list } : State).leasesThawed p }
      ∧ u.records = s.records.set 128 (.present (i.header.version.getD 0) (.layout list) g i.header.sequence)
      ∧ ∀ o,
        let told := appendNotice
          (if o = p then .commitDone token 1 run.sequence else .layoutChanged w reason p run.sequence) (s.port o).notices
        let revoked : Bool := !stays && match (s.lease w).held with
          | some h => h.port == o
          | none => false
        u.port o
          = { s.port o with
              txn := if o = p then .none else (s.port o).txn
              staging := if o = p then .records [] else (s.port o).staging
              lastOutcome := if o = p then ⟨some token, .done, some run.sequence⟩ else (s.port o).lastOutcome
              watch := if defined.isSome then (s.port o).watch else (s.port o).watch.set w.castSucc false
              holder := match (s.port o).holder with
                | .scan c =>
                  if c.scope = .area ∧ c.endReason = none then .scan { c with endReason := some .layout } else .scan c
                | .empty => .empty
                | .result status payload => .result status payload
              notices := if revoked then appendNotice (.leaseRevoked w) told else told }

/-- The completion of a relocation (R9, R30, R32, R66, R67, R68, R77): at the pass of its last position every record it moved
takes its new page and sequence with state, version and data unchanged; the run's pages are LIVE with their headers, the
target's pages are all STALE and its Census entry gone, and an entry for the relocation stands last; what READ and SCAN send of
any record is as before, and no port, window, lease or queue entry changes. What STATUS reports of page counts and activity does
change (R81). Then a READY store with more than 32 BAD pages enters READ_ONLY with MEDIA. -/
def Obligations.RelocationKeepsRecords : Prop :=
  ∀ (s : State) (g : PageNo) (i : PageImage) (target : Sequence) (run : ImageRun),
    s.op = some (.program g i) → s.job = .relocate target run → run.images.length = run.verified.length + 1 →
    s.DirectoryConsistent →
    ∃ u : State, exec (.pageProgramVerdict .pass) s = .next u.settled
      ∧ u = { s with
          records := u.records, pages := u.pages, census := u.census, job := .idle, op := none
          array := s.array.set g (.programmed i) }
      ∧ (∀ r, u.recordBytes r = s.recordBytes r)
      ∧ (∀ r, (u.record r).version = (s.record r).version ∧ (u.record r).payload = (s.record r).payload)
      ∧ (∀ (k : Nat) (image : PageImage) page, run.images[k]? = some image → (run.verified ++ [g])[k]? = some page →
        u.page page = .live image.header
          ∧ ∃ r, image.header.record = some r ∧ (u.record r).backing = some (page, run.sequence))
      ∧ (∀ r, (∀ image ∈ run.images, image.header.record ≠ some r) → u.record r = s.record r)
      ∧ u.census = (s.census.filter fun e => e.sequence ≠ target)
        ++ [⟨run.sequence, (run.verified ++ [g]).map fun page => ⟨page, true⟩⟩]
      ∧ ∀ h, h ∉ run.verified ++ [g] →
        u.page h = if ∃ e ∈ s.census, e.sequence = target ∧ ∃ x ∈ e.pages, x.page = h then .stale else s.page h

/-- PAGE_ERASE_VERDICT (R28, R29, R32, R73, R166, R167). An erased page is CLEAN and blank, one that failed is retired. An
ERASE job ends, with READ_ONLY if a READY store then has more than 32 BAD pages. In a format the page settles at once, but
one that was LIVE or RETAINED keeps its state with the outcome noted; then the format goes on. Without an erase in
progress there is no verdict (log entry 10). -/
def Obligations.EraseVerdictSettles : Prop :=
  ∀ (verdict : EraseVerdict) (s : State),
    ((∀ g, s.op ≠ some (.erase g)) → exec (.pageEraseVerdict verdict) s = .next s)
      ∧ ∀ g, s.op = some (.erase g) →
        (∀ k, s.job = .erase k →
            let t := { s.erased g verdict with job := .idle }
            exec (.pageEraseVerdict verdict) s
              = .next t.settled)
          ∧ (∀ q failures noted, s.job = .format (.epoch q failures) noted →
            exec (.pageEraseVerdict verdict) s = .next ((s.erased g verdict).epochAttempt q failures noted))
          ∧ (∀ next epochPage noted, s.job = .format (.sweep next epochPage) noted →
            exec (.pageEraseVerdict verdict) s
              = .next (State.sweep
                (if (s.page g).isLive = true ∨ (s.page g).isRetained = true then
                  { s with array := (s.erased g verdict).array, op := none }
                else s.erased g verdict)
                (g.val + 1) epochPage
                (if (s.page g).isLive = true ∨ (s.page g).isRetained = true then
                  noted ++ [⟨g, verdict == .erased⟩]
                else noted)))
          ∧ ∀ k noted, s.job = .format (.eraseEpoch k) noted →
            exec (.pageEraseVerdict verdict) s = .next ((s.erased g verdict).formatEnd noted)

/-- FORMAT_JOB_BEGIN and the steps of a format (R35, R165, R166, R167). The job takes the next sequence for its EPOCH page and
tries up to three times to program it on a CLEAN page, erasing the STALE page of lowest number while none is CLEAN; then
it erases, from page 0 up, every page that is not CLEAN, not BAD and not the EPOCH page, the EPOCH page last, and ends. No
sequence left: no EPOCH page. PFW asserted together: no operation (R98, log entry 22). That a beginning which may not come
changes nothing is log entry 10, and that a format with nothing left to erase ends while PFW is asserted is log entry 28: the
model's choice. -/
def Obligations.FormatSteps : Prop :=
  ∀ s : State,
    (∀ together,
        (¬(s.inReset = false ∧ s.store = .formatting ∧ s.job = .idle ∧ s.pfw = false) →
            exec (.formatJobBegin together) s = .next { s with pfw := s.pfw || together })
          ∧ (s.inReset = false → s.store = .formatting → s.job = .idle → s.pfw = false →
            let u := { s with pfw := together }
            exec (.formatJobBegin together) s
              = .next (if s.nextSequence = 0xFFFFFFFF then u.sweep 0 none []
                else ({ u with nextSequence := s.nextSequence + 1 } : State).epochAttempt s.nextSequence 0 [])))
      ∧ (∀ g i q failures noted, s.op = some (.program g i) → s.job = .format (.epoch q failures) noted →
        exec (.pageProgramVerdict .pass) s = .next ((s.verified g i).sweep 0 (some g) noted)
          ∧ ∀ mark, exec (.pageProgramVerdict (.fail mark)) s
            = .next ((s.failedProgram g mark).epochAttempt q (failures + 1) noted))
      ∧ (∀ q failures noted,
        let u := { s with job := .format (.epoch q failures) noted }
        s.epochAttempt q failures noted
          = if 3 ≤ failures then s.sweep 0 none noted
            else if s.pfw then { u with op := none }
            else match s.findClean, s.lowestStale with
              | some g, _ =>
                { u with
                  pages := s.pages.set g (.pending none), pointer := g + 1
                  op := some (.program g (.checked ⟨.epoch, none, none, q, 1, 1, false⟩ .none)) }
              | none, some g => { u with op := some (.erase g) }
              | none, none => u.sweep 0 none noted)
      ∧ ∀ next epochPage noted,
        let erases : FormatStep → PageNo → State := fun step g =>
          { s with job := .format step noted, op := if s.pfw then none else some (.erase g) }
        s.sweep next epochPage noted
          = match (allPages.filter fun g =>
              decide (next ≤ g.val) && !(s.page g).isClean && !(s.page g).isBad && epochPage != some g).head?, epochPage with
            | some g, _ => erases (.sweep next epochPage) g
            | none, some g => erases (.eraseEpoch g) g
            | none, none => s.formatEnd noted

/-- The end of a format (R29, R31, R34, R160, R168): the pages noted are CLEAN, or BAD and counted; every record is
UNWRITTEN, the Window Table and the Census empty, the next sequence 1, the pointer 0, the recovered flag clear and the
engine free; every transaction is NONE, area scans end, and the store is READY, or READ_ONLY with MEDIA, with STORE_STATE
to every port. -/
def Obligations.FormatEnds : Prop :=
  ∀ (s : State) (noted : List NotedErase), (noted.map NotedErase.page).Nodup →
    let bad := s.badCount + (noted.filter fun n => !n.erased).length
    let store : StoreState := if 32 < bad then .readOnly .media else .ready
    ∃ ports pages,
      s.formatEnd noted
          = { s with
              ports := ports, records := .fill 129 .unwritten, windows := .fill 16 none, pages := pages, pointer := 0
              badCount := bad, nextSequence := 1, census := [], store := store, recovered := false, job := .idle
              op := none }
        ∧ (∀ g, pages.get g = match noted.find? fun n => n.page = g with
          | some n => if n.erased then .clean else .bad
          | none => s.page g)
        ∧ ∀ p, ports.get p
          = { s.port p with
              txn := .none, staging := .records []
              holder := match (s.port p).holder with
                | .scan c =>
                  if c.scope = .area ∧ c.endReason = none then .scan { c with endReason := some .layout } else .scan c
                | .empty => .empty
                | .result status payload => .result status payload
              notices := appendNotice (.storeState store) (s.port p).notices }

/-! ## What every step keeps -/

/-- Every step keeps: at most 16 entries in every notice queue (R126); in every staging list at most 8 record entries, no
record twice, and at most 32 bytes to a record (R38); with the HOLD flag set, PFW asserted and no page operation in progress
(R96, R97); and in every lease state no wait list without a holder, else at most 3 waiters, none twice, the holder not among
them (R104). -/
def Obligations.StepsKeepBounds : Prop :=
  ∀ s t : State, step s = .next t →
    (s.NoticesBounded → t.NoticesBounded) ∧ (s.StagingBounded → t.StagingBounded)
      ∧ (s.HoldConsistent → t.HoldConsistent) ∧ (s.LeasesWellShaped → t.LeasesWellShaped)

/-- Every step keeps the fit of store state, device reset and the engine's job: a mount runs in MOUNTING, a FORMAT job in
FORMATTING, and a part in device reset is MOUNTING with no job (R82, R83, R165). The last is log entry 17, the model's choice:
the spec gives MOUNTING at the release. -/
def Obligations.StepsKeepStoreFit : Prop :=
  ∀ s t : State, s.StoreConsistent → step s = .next t → t.StoreConsistent

/-- Every step keeps the Commit Queue: at most one entry per port and 4 in all, its ports exactly the QUEUED ones with their
lists, the COMMIT job's port exactly the RUNNING one, and an empty queue in MOUNTING and FORMATTING (R37, R50, R55). -/
def Obligations.StepsKeepCommitQueue : Prop :=
  ∀ s t : State, s.StoreConsistent → s.QueueConsistent → step s = .next t → t.QueueConsistent

/-- Every step keeps the Window Table equal to the list of the layout record, with its definitions in range and none
overlapping another (R7, R101, R102). -/
def Obligations.StepsKeepLayout : Prop :=
  ∀ s t : State, s.LayoutConsistent → step s = .next t → t.LayoutConsistent

/-- Every step keeps leases to LEASED windows, and to a store that is READY or READ_ONLY (R104, R115). -/
def Obligations.StepsKeepLeasePolicy : Prop :=
  ∀ s t : State, s.StoreConsistent → s.LayoutConsistent → s.LeasesFollowPolicy → step s = .next t →
    t.LeasesFollowPolicy

/-- Every step keeps the Page Directory, the Census, the records, the bad count and the engine's job in fit (R2, R22, R23, R30,
R31, R65): the page of a record that is not UNWRITTEN is LIVE with its header, and a LIVE page is the page of one record; the
Census is in increasing order of sequence and holds exactly the LIVE and RETAINED pages; the bad count is the number of BAD
pages; and a page is PENDING only for the job that programmed it. -/
def Obligations.StepsKeepDirectory : Prop :=
  ∀ s t : State, s.StoreConsistent → s.QueueConsistent → s.StagingBounded → s.DirectoryConsistent → step s = .next t →
    t.DirectoryConsistent

/-- The state at the release from device reset has the values of Table 19 and meets every invariant above. The array's
content, the service flags and the pins are the model's choice (log entries 4 and 5), and this rests on none of them. -/
def Obligations.ResetMeetsInvariants : Prop :=
  (∀ p, (State.reset.port p).txn = .none ∧ (State.reset.port p).staging = .records []
      ∧ (State.reset.port p).tokenCounter = 0 ∧ (State.reset.port p).lastOutcome = ⟨none, .none, none⟩
      ∧ (State.reset.port p).holder = .empty ∧ (State.reset.port p).notices = []
      ∧ (State.reset.port p).controller = .idle ∧ ∀ a, (State.reset.port p).watch.get a = false)
    ∧ (∀ r, State.reset.record r = .unwritten) ∧ (∀ w, State.reset.windows.get w = none)
    ∧ (∀ w, State.reset.lease w = ⟨none, []⟩) ∧ State.reset.queue = []
    ∧ (∀ g, State.reset.page g = .stale) ∧ State.reset.pointer = 0 ∧ State.reset.badCount = 0
    ∧ State.reset.nextSequence = 1 ∧ State.reset.census = [] ∧ State.reset.store = .mounting
    ∧ State.reset.recovered = false ∧ State.reset.hold = false ∧ State.reset.job = .mount ∧ State.reset.op = none
    ∧ State.reset.NoticesBounded ∧ State.reset.StagingBounded ∧ State.reset.HoldConsistent
    ∧ State.reset.LeasesWellShaped ∧ State.reset.StoreConsistent ∧ State.reset.QueueConsistent
    ∧ State.reset.LayoutConsistent ∧ State.reset.LeasesFollowPolicy ∧ State.reset.DirectoryConsistent

/-- What may change the store (R5, R8, R19, R85): no command of a port, of the timebase or of the pins but PFW_DEASSERT and
DEVICE_RESET changes a record, a window, the Page Directory, the Census, a sequence or the array. A page of the array
changes only at the verdict, or the cut-off, of the operation in progress on it. A record changes only at the pass of the
last position of a commit or relocation, at the end of a mount, at a device reset, and at the end of a format. A page of the
Directory changes state, but for the end of a mount and device reset, only as Table 9 gives, at its event (R23). -/
def Obligations.StoreChangesAtItsEvents : Prop :=
  ∀ (c : Instr) (s t : State), exec c s = .next t →
    ((portOf c).isSome ∨ c = .leaseTick ∨ (∃ w, c = .leaseExpiry w) ∨ c = .pfwAssert ∨ c = .holdTakesEffect
        ∨ (∃ x y z, c = .resetRelease x y z) →
      t.records = s.records ∧ t.windows = s.windows ∧ t.pages = s.pages ∧ t.pointer = s.pointer
        ∧ t.badCount = s.badCount ∧ t.nextSequence = s.nextSequence ∧ t.census = s.census ∧ t.array = s.array
        ∧ t.recovered = s.recovered ∧ t.op = s.op)
      ∧ (∀ g, t.array.get g ≠ s.array.get g →
        ((∃ verdict, c = .pageProgramVerdict verdict) ∧ (∃ i, s.op = some (.program g i)))
          ∨ ((∃ verdict, c = .pageEraseVerdict verdict) ∧ s.op = some (.erase g))
          ∨ (∃ cut, c = .deviceReset cut) ∧ (s.op = some (.erase g) ∨ ∃ i, s.op = some (.program g i)))
      ∧ (t.records ≠ s.records →
        (c = .pageProgramVerdict .pass ∧ (∃ g i, s.op = some (.program g i))
            ∧ ∃ run : ImageRun, run.images.length ≤ run.verified.length + 1
              ∧ ((∃ p token staging, s.job = .commit p token staging run) ∨ ∃ target, s.job = .relocate target run))
          ∨ c = .mountEnd ∨ (∃ cut, c = .deviceReset cut) ∨ FormatEndsAt c s t)
      ∧ (s.StoreConsistent → s.DirectoryConsistent → c ≠ .mountEnd → (∀ cut, c ≠ .deviceReset cut) →
        ∀ g, t.page g = s.page g ∨ PageMoves c s t g (s.page g) (t.page g))

/-- One port's link and results are its own (R144, R149, R157, R163): a command that is not of port `q`, device reset apart,
leaves its Frame Controller, its line and its token counter, and its result holder but for a scan of scope AREA that ends
with LAYOUT; and no command but the release from reset changes a service flag. -/
def Obligations.PortsAreSeparate : Prop :=
  ∀ (c : Instr) (s t : State) (q : Port), exec c s = .next t →
    ((∀ x y z, c ≠ .resetRelease x y z) → (t.port q).service = (s.port q).service)
      ∧ (portOf c ≠ some q → (∀ cut, c ≠ .deviceReset cut) →
        (t.port q).controller = (s.port q).controller ∧ (t.port q).line = (s.port q).line
          ∧ (t.port q).tokenCounter = (s.port q).tokenCounter
          ∧ ((t.port q).holder = (s.port q).holder
            ∨ ∃ cursor, (s.port q).holder = .scan cursor ∧ cursor.scope = .area ∧ cursor.endReason = none
              ∧ (t.port q).holder = .scan { cursor with endReason := some .layout }))
end

