-- ==== Sys2Proof/Laws/Table.lean ====
section
/-!
SUPPORT. The laws of `Table`: what a row reads after each update, and equality row by row.
-/

namespace Sys2Proof.Machine

/-- A row is the element of the list at its index. -/
theorem Table.get_eq_getElem {α : Type} {n : Nat} (t : Table α n) (i : Fin n) :
    t.get i = t.rows[i.val]'(t.size.symm ▸ i.isLt) := rfl

theorem Table.get_set_self {α : Type} {n : Nat} (t : Table α n) (i : Fin n) (a : α) : (t.set i a).get i = a := by
  rw [Table.get_eq_getElem]
  exact List.getElem_set_self _

theorem Table.get_set_ne {α : Type} {n : Nat} (t : Table α n) {i j : Fin n} (h : j ≠ i) (a : α) :
    (t.set i a).get j = t.get j := by
  rw [Table.get_eq_getElem, Table.get_eq_getElem]
  exact List.getElem_set_ne (fun e => h (Fin.ext e.symm)) _

/-- A row after a write: the written value in its own row, the former value elsewhere. -/
@[simp] theorem Table.get_set {α : Type} {n : Nat} (t : Table α n) (i j : Fin n) (a : α) :
    (t.set i a).get j = if j = i then a else t.get j := by
  split
  · next h => rw [h, Table.get_set_self]
  · next h => exact Table.get_set_ne t h a

@[simp] theorem Table.get_fill {α : Type} {n : Nat} (a : α) (i : Fin n) : (Table.fill n a).get i = a := by
  simp [Table.get, Table.fill]

@[simp] theorem Table.get_build {α : Type} {n : Nat} (f : Fin n → α) (i : Fin n) : (Table.build n f).get i = f i := by
  rw [Table.get_eq_getElem]
  simp [Table.build]

@[simp] theorem Table.get_map {α β : Type} {n : Nat} (f : α → β) (t : Table α n) (i : Fin n) :
    (t.map f).get i = f (t.get i) := by
  rw [Table.get_eq_getElem, Table.get_eq_getElem]
  exact List.getElem_map f

theorem Table.map_fill {α β : Type} {n : Nat} (f : α → β) (a : α) : (Table.fill n a).map f = Table.fill n (f a) := by
  simp [Table.map, Table.fill]

/-- Tables that read alike in every row are equal. -/
theorem Table.ext_get {α : Type} {n : Nat} {t u : Table α n} (h : ∀ i, t.get i = u.get i) : t = u := by
  obtain ⟨a, ha⟩ := t
  obtain ⟨b, hb⟩ := u
  have : a = b := by
    apply List.ext_getElem (by rw [ha, hb])
    intro i h1 h2
    have := h ⟨i, ha ▸ h1⟩
    simpa [Table.get] using this
  subst this
  rfl

@[simp] theorem Table.set_get_self {α : Type} {n : Nat} (t : Table α n) (i : Fin n) : t.set i (t.get i) = t := by
  apply Table.ext_get
  intro j
  rw [Table.get_set]
  split
  · next h => rw [h]
  · rfl

@[simp] theorem Table.set_set {α : Type} {n : Nat} (t : Table α n) (i : Fin n) (a b : α) :
    (t.set i a).set i b = t.set i b := by
  apply Table.ext_get
  intro j
  simp only [Table.get_set]
  split <;> rfl

theorem Table.map_set {α β : Type} {n : Nat} (f : α → β) (t : Table α n) (i : Fin n) (a : α) :
    (t.set i a).map f = (t.map f).set i (f a) := by
  simp [Table.map, Table.set, List.map_set]

theorem Table.set_comm {α : Type} {n : Nat} (t : Table α n) {i j : Fin n} (h : i ≠ j) (a b : α) :
    (t.set i a).set j b = (t.set j b).set i a := by
  apply Table.ext_get
  intro k
  simp only [Table.get_set]
  by_cases hj : k = j
  · subst hj
    simp [h.symm]
  · simp [hj]

theorem Table.mem_rows_iff {α : Type} {n : Nat} (t : Table α n) (a : α) : a ∈ t.rows ↔ ∃ i, t.get i = a := by
  constructor
  · intro h
    obtain ⟨k, hk, e⟩ := List.mem_iff_getElem.mp h
    exact ⟨⟨k, t.size ▸ hk⟩, by simpa [Table.get] using e⟩
  · rintro ⟨i, rfl⟩
    exact List.get_mem t.rows _

/-- The count of a table is the number of its rows that satisfy the predicate; it never passes the size. -/
theorem Table.count_le {α : Type} {n : Nat} (t : Table α n) (p : α → Bool) : t.count p ≤ n :=
  le_trans List.countP_le_length (le_of_eq t.size)

/-- The rows in order are the reads of the table. -/
theorem Table.rows_eq_map_get {α : Type} {n : Nat} (t : Table α n) : t.rows = (List.finRange n).map t.get := by
  refine List.ext_getElem (by simp [t.size]) fun i h1 h2 => ?_
  simp [Table.get]

/-- The rows that satisfy a predicate are as many as the indexes that read such a row. -/
theorem Table.count_eq_length_filter {α : Type} {n : Nat} (t : Table α n) (p : α → Bool) :
    ((List.finRange n).filter fun i => p (t.get i)).length = t.count p := by
  rw [Table.count, t.rows_eq_map_get, List.countP_map, List.countP_eq_length_filter]
  rfl

/-- What one pass over the rows finds of each row with its index holds of every read. -/
theorem Table.of_all_zip {α : Type} {n : Nat} (t : Table α n) (p : Fin n → α → Bool)
    (h : ((List.finRange n).zip t.rows).all (fun x => p x.1 x.2) = true) (i : Fin n) : p i (t.get i) = true := by
  rw [t.rows_eq_map_get, List.zip_map_right, List.all_map] at h
  have := List.all_eq_true.mp h (i, i)
  refine this ?_
  rw [List.mem_iff_getElem]
  exact ⟨i.val, by simp, by simp⟩

theorem Table.count_fill {α : Type} {n : Nat} (a : α) (p : α → Bool) :
    (Table.fill n a).count p = if p a then n else 0 := by
  simp [Table.count, Table.fill, List.countP_replicate]

end Sys2Proof.Machine
end

