-- ==== Sys2Proof/Laws/State.lean ====
section
/-!
SUPPORT. One lemma for each field of `State` and each update that leaves it alone, and what each update puts in the
field it changes. Later proofs cite these instead of unfolding an update.
-/

namespace Sys2Proof.Machine

variable (s : State)

/-! ## onPort -/

@[simp] theorem State.onPort_records (p : Port) (f : PortState → PortState) : (s.onPort p f).records = s.records := rfl
@[simp] theorem State.onPort_windows (p : Port) (f : PortState → PortState) : (s.onPort p f).windows = s.windows := rfl
@[simp] theorem State.onPort_leases (p : Port) (f : PortState → PortState) : (s.onPort p f).leases = s.leases := rfl
@[simp] theorem State.onPort_queue (p : Port) (f : PortState → PortState) : (s.onPort p f).queue = s.queue := rfl
@[simp] theorem State.onPort_pages (p : Port) (f : PortState → PortState) : (s.onPort p f).pages = s.pages := rfl
@[simp] theorem State.onPort_pointer (p : Port) (f : PortState → PortState) : (s.onPort p f).pointer = s.pointer := rfl
@[simp] theorem State.onPort_badCount (p : Port) (f : PortState → PortState) : (s.onPort p f).badCount = s.badCount := rfl
@[simp] theorem State.onPort_nextSequence (p : Port) (f : PortState → PortState) : (s.onPort p f).nextSequence = s.nextSequence := rfl
@[simp] theorem State.onPort_census (p : Port) (f : PortState → PortState) : (s.onPort p f).census = s.census := rfl
@[simp] theorem State.onPort_array (p : Port) (f : PortState → PortState) : (s.onPort p f).array = s.array := rfl
@[simp] theorem State.onPort_store (p : Port) (f : PortState → PortState) : (s.onPort p f).store = s.store := rfl
@[simp] theorem State.onPort_recovered (p : Port) (f : PortState → PortState) : (s.onPort p f).recovered = s.recovered := rfl
@[simp] theorem State.onPort_hold (p : Port) (f : PortState → PortState) : (s.onPort p f).hold = s.hold := rfl
@[simp] theorem State.onPort_job (p : Port) (f : PortState → PortState) : (s.onPort p f).job = s.job := rfl
@[simp] theorem State.onPort_op (p : Port) (f : PortState → PortState) : (s.onPort p f).op = s.op := rfl
@[simp] theorem State.onPort_inReset (p : Port) (f : PortState → PortState) : (s.onPort p f).inReset = s.inReset := rfl
@[simp] theorem State.onPort_pfw (p : Port) (f : PortState → PortState) : (s.onPort p f).pfw = s.pfw := rfl
@[simp] theorem State.onPort_straps (p : Port) (f : PortState → PortState) : (s.onPort p f).straps = s.straps := rfl
@[simp] theorem State.onPort_pending (p : Port) (f : PortState → PortState) : (s.onPort p f).pending = s.pending := rfl

/-! ## onPorts -/

@[simp] theorem State.onPorts_records (f : PortState → PortState) : (s.onPorts f).records = s.records := rfl
@[simp] theorem State.onPorts_windows (f : PortState → PortState) : (s.onPorts f).windows = s.windows := rfl
@[simp] theorem State.onPorts_leases (f : PortState → PortState) : (s.onPorts f).leases = s.leases := rfl
@[simp] theorem State.onPorts_queue (f : PortState → PortState) : (s.onPorts f).queue = s.queue := rfl
@[simp] theorem State.onPorts_pages (f : PortState → PortState) : (s.onPorts f).pages = s.pages := rfl
@[simp] theorem State.onPorts_pointer (f : PortState → PortState) : (s.onPorts f).pointer = s.pointer := rfl
@[simp] theorem State.onPorts_badCount (f : PortState → PortState) : (s.onPorts f).badCount = s.badCount := rfl
@[simp] theorem State.onPorts_nextSequence (f : PortState → PortState) : (s.onPorts f).nextSequence = s.nextSequence := rfl
@[simp] theorem State.onPorts_census (f : PortState → PortState) : (s.onPorts f).census = s.census := rfl
@[simp] theorem State.onPorts_array (f : PortState → PortState) : (s.onPorts f).array = s.array := rfl
@[simp] theorem State.onPorts_store (f : PortState → PortState) : (s.onPorts f).store = s.store := rfl
@[simp] theorem State.onPorts_recovered (f : PortState → PortState) : (s.onPorts f).recovered = s.recovered := rfl
@[simp] theorem State.onPorts_hold (f : PortState → PortState) : (s.onPorts f).hold = s.hold := rfl
@[simp] theorem State.onPorts_job (f : PortState → PortState) : (s.onPorts f).job = s.job := rfl
@[simp] theorem State.onPorts_op (f : PortState → PortState) : (s.onPorts f).op = s.op := rfl
@[simp] theorem State.onPorts_inReset (f : PortState → PortState) : (s.onPorts f).inReset = s.inReset := rfl
@[simp] theorem State.onPorts_pfw (f : PortState → PortState) : (s.onPorts f).pfw = s.pfw := rfl
@[simp] theorem State.onPorts_straps (f : PortState → PortState) : (s.onPorts f).straps = s.straps := rfl
@[simp] theorem State.onPorts_pending (f : PortState → PortState) : (s.onPorts f).pending = s.pending := rfl

/-! ## notify -/

@[simp] theorem State.notify_records (p : Port) (b : NoticeBody) : (s.notify p b).records = s.records := rfl
@[simp] theorem State.notify_windows (p : Port) (b : NoticeBody) : (s.notify p b).windows = s.windows := rfl
@[simp] theorem State.notify_leases (p : Port) (b : NoticeBody) : (s.notify p b).leases = s.leases := rfl
@[simp] theorem State.notify_queue (p : Port) (b : NoticeBody) : (s.notify p b).queue = s.queue := rfl
@[simp] theorem State.notify_pages (p : Port) (b : NoticeBody) : (s.notify p b).pages = s.pages := rfl
@[simp] theorem State.notify_pointer (p : Port) (b : NoticeBody) : (s.notify p b).pointer = s.pointer := rfl
@[simp] theorem State.notify_badCount (p : Port) (b : NoticeBody) : (s.notify p b).badCount = s.badCount := rfl
@[simp] theorem State.notify_nextSequence (p : Port) (b : NoticeBody) : (s.notify p b).nextSequence = s.nextSequence := rfl
@[simp] theorem State.notify_census (p : Port) (b : NoticeBody) : (s.notify p b).census = s.census := rfl
@[simp] theorem State.notify_array (p : Port) (b : NoticeBody) : (s.notify p b).array = s.array := rfl
@[simp] theorem State.notify_store (p : Port) (b : NoticeBody) : (s.notify p b).store = s.store := rfl
@[simp] theorem State.notify_recovered (p : Port) (b : NoticeBody) : (s.notify p b).recovered = s.recovered := rfl
@[simp] theorem State.notify_hold (p : Port) (b : NoticeBody) : (s.notify p b).hold = s.hold := rfl
@[simp] theorem State.notify_job (p : Port) (b : NoticeBody) : (s.notify p b).job = s.job := rfl
@[simp] theorem State.notify_op (p : Port) (b : NoticeBody) : (s.notify p b).op = s.op := rfl
@[simp] theorem State.notify_inReset (p : Port) (b : NoticeBody) : (s.notify p b).inReset = s.inReset := rfl
@[simp] theorem State.notify_pfw (p : Port) (b : NoticeBody) : (s.notify p b).pfw = s.pfw := rfl
@[simp] theorem State.notify_straps (p : Port) (b : NoticeBody) : (s.notify p b).straps = s.straps := rfl
@[simp] theorem State.notify_pending (p : Port) (b : NoticeBody) : (s.notify p b).pending = s.pending := rfl

/-! ## notifyAll -/

@[simp] theorem State.notifyAll_records (b : NoticeBody) : (s.notifyAll b).records = s.records := rfl
@[simp] theorem State.notifyAll_windows (b : NoticeBody) : (s.notifyAll b).windows = s.windows := rfl
@[simp] theorem State.notifyAll_leases (b : NoticeBody) : (s.notifyAll b).leases = s.leases := rfl
@[simp] theorem State.notifyAll_queue (b : NoticeBody) : (s.notifyAll b).queue = s.queue := rfl
@[simp] theorem State.notifyAll_pages (b : NoticeBody) : (s.notifyAll b).pages = s.pages := rfl
@[simp] theorem State.notifyAll_pointer (b : NoticeBody) : (s.notifyAll b).pointer = s.pointer := rfl
@[simp] theorem State.notifyAll_badCount (b : NoticeBody) : (s.notifyAll b).badCount = s.badCount := rfl
@[simp] theorem State.notifyAll_nextSequence (b : NoticeBody) : (s.notifyAll b).nextSequence = s.nextSequence := rfl
@[simp] theorem State.notifyAll_census (b : NoticeBody) : (s.notifyAll b).census = s.census := rfl
@[simp] theorem State.notifyAll_array (b : NoticeBody) : (s.notifyAll b).array = s.array := rfl
@[simp] theorem State.notifyAll_store (b : NoticeBody) : (s.notifyAll b).store = s.store := rfl
@[simp] theorem State.notifyAll_recovered (b : NoticeBody) : (s.notifyAll b).recovered = s.recovered := rfl
@[simp] theorem State.notifyAll_hold (b : NoticeBody) : (s.notifyAll b).hold = s.hold := rfl
@[simp] theorem State.notifyAll_job (b : NoticeBody) : (s.notifyAll b).job = s.job := rfl
@[simp] theorem State.notifyAll_op (b : NoticeBody) : (s.notifyAll b).op = s.op := rfl
@[simp] theorem State.notifyAll_inReset (b : NoticeBody) : (s.notifyAll b).inReset = s.inReset := rfl
@[simp] theorem State.notifyAll_pfw (b : NoticeBody) : (s.notifyAll b).pfw = s.pfw := rfl
@[simp] theorem State.notifyAll_straps (b : NoticeBody) : (s.notifyAll b).straps = s.straps := rfl
@[simp] theorem State.notifyAll_pending (b : NoticeBody) : (s.notifyAll b).pending = s.pending := rfl

/-! ## setLease -/

@[simp] theorem State.setLease_ports (w : WindowNo) (l : LeaseState) : (s.setLease w l).ports = s.ports := rfl
@[simp] theorem State.setLease_records (w : WindowNo) (l : LeaseState) : (s.setLease w l).records = s.records := rfl
@[simp] theorem State.setLease_windows (w : WindowNo) (l : LeaseState) : (s.setLease w l).windows = s.windows := rfl
@[simp] theorem State.setLease_queue (w : WindowNo) (l : LeaseState) : (s.setLease w l).queue = s.queue := rfl
@[simp] theorem State.setLease_pages (w : WindowNo) (l : LeaseState) : (s.setLease w l).pages = s.pages := rfl
@[simp] theorem State.setLease_pointer (w : WindowNo) (l : LeaseState) : (s.setLease w l).pointer = s.pointer := rfl
@[simp] theorem State.setLease_badCount (w : WindowNo) (l : LeaseState) : (s.setLease w l).badCount = s.badCount := rfl
@[simp] theorem State.setLease_nextSequence (w : WindowNo) (l : LeaseState) : (s.setLease w l).nextSequence = s.nextSequence := rfl
@[simp] theorem State.setLease_census (w : WindowNo) (l : LeaseState) : (s.setLease w l).census = s.census := rfl
@[simp] theorem State.setLease_array (w : WindowNo) (l : LeaseState) : (s.setLease w l).array = s.array := rfl
@[simp] theorem State.setLease_store (w : WindowNo) (l : LeaseState) : (s.setLease w l).store = s.store := rfl
@[simp] theorem State.setLease_recovered (w : WindowNo) (l : LeaseState) : (s.setLease w l).recovered = s.recovered := rfl
@[simp] theorem State.setLease_hold (w : WindowNo) (l : LeaseState) : (s.setLease w l).hold = s.hold := rfl
@[simp] theorem State.setLease_job (w : WindowNo) (l : LeaseState) : (s.setLease w l).job = s.job := rfl
@[simp] theorem State.setLease_op (w : WindowNo) (l : LeaseState) : (s.setLease w l).op = s.op := rfl
@[simp] theorem State.setLease_inReset (w : WindowNo) (l : LeaseState) : (s.setLease w l).inReset = s.inReset := rfl
@[simp] theorem State.setLease_pfw (w : WindowNo) (l : LeaseState) : (s.setLease w l).pfw = s.pfw := rfl
@[simp] theorem State.setLease_straps (w : WindowNo) (l : LeaseState) : (s.setLease w l).straps = s.straps := rfl
@[simp] theorem State.setLease_pending (w : WindowNo) (l : LeaseState) : (s.setLease w l).pending = s.pending := rfl

/-! ## freeze -/

@[simp] theorem State.freeze_ports (p : Port) (st : Staging) : (s.freeze p st).ports = s.ports := rfl
@[simp] theorem State.freeze_records (p : Port) (st : Staging) : (s.freeze p st).records = s.records := rfl
@[simp] theorem State.freeze_windows (p : Port) (st : Staging) : (s.freeze p st).windows = s.windows := rfl
@[simp] theorem State.freeze_queue (p : Port) (st : Staging) : (s.freeze p st).queue = s.queue := rfl
@[simp] theorem State.freeze_pages (p : Port) (st : Staging) : (s.freeze p st).pages = s.pages := rfl
@[simp] theorem State.freeze_pointer (p : Port) (st : Staging) : (s.freeze p st).pointer = s.pointer := rfl
@[simp] theorem State.freeze_badCount (p : Port) (st : Staging) : (s.freeze p st).badCount = s.badCount := rfl
@[simp] theorem State.freeze_nextSequence (p : Port) (st : Staging) : (s.freeze p st).nextSequence = s.nextSequence := rfl
@[simp] theorem State.freeze_census (p : Port) (st : Staging) : (s.freeze p st).census = s.census := rfl
@[simp] theorem State.freeze_array (p : Port) (st : Staging) : (s.freeze p st).array = s.array := rfl
@[simp] theorem State.freeze_store (p : Port) (st : Staging) : (s.freeze p st).store = s.store := rfl
@[simp] theorem State.freeze_recovered (p : Port) (st : Staging) : (s.freeze p st).recovered = s.recovered := rfl
@[simp] theorem State.freeze_hold (p : Port) (st : Staging) : (s.freeze p st).hold = s.hold := rfl
@[simp] theorem State.freeze_job (p : Port) (st : Staging) : (s.freeze p st).job = s.job := rfl
@[simp] theorem State.freeze_op (p : Port) (st : Staging) : (s.freeze p st).op = s.op := rfl
@[simp] theorem State.freeze_inReset (p : Port) (st : Staging) : (s.freeze p st).inReset = s.inReset := rfl
@[simp] theorem State.freeze_pfw (p : Port) (st : Staging) : (s.freeze p st).pfw = s.pfw := rfl
@[simp] theorem State.freeze_straps (p : Port) (st : Staging) : (s.freeze p st).straps = s.straps := rfl
@[simp] theorem State.freeze_pending (p : Port) (st : Staging) : (s.freeze p st).pending = s.pending := rfl

/-! ## endFreeze -/

@[simp] theorem State.endFreeze_ports (p : Port) : (s.endFreeze p).ports = s.ports := rfl
@[simp] theorem State.endFreeze_records (p : Port) : (s.endFreeze p).records = s.records := rfl
@[simp] theorem State.endFreeze_windows (p : Port) : (s.endFreeze p).windows = s.windows := rfl
@[simp] theorem State.endFreeze_queue (p : Port) : (s.endFreeze p).queue = s.queue := rfl
@[simp] theorem State.endFreeze_pages (p : Port) : (s.endFreeze p).pages = s.pages := rfl
@[simp] theorem State.endFreeze_pointer (p : Port) : (s.endFreeze p).pointer = s.pointer := rfl
@[simp] theorem State.endFreeze_badCount (p : Port) : (s.endFreeze p).badCount = s.badCount := rfl
@[simp] theorem State.endFreeze_nextSequence (p : Port) : (s.endFreeze p).nextSequence = s.nextSequence := rfl
@[simp] theorem State.endFreeze_census (p : Port) : (s.endFreeze p).census = s.census := rfl
@[simp] theorem State.endFreeze_array (p : Port) : (s.endFreeze p).array = s.array := rfl
@[simp] theorem State.endFreeze_store (p : Port) : (s.endFreeze p).store = s.store := rfl
@[simp] theorem State.endFreeze_recovered (p : Port) : (s.endFreeze p).recovered = s.recovered := rfl
@[simp] theorem State.endFreeze_hold (p : Port) : (s.endFreeze p).hold = s.hold := rfl
@[simp] theorem State.endFreeze_job (p : Port) : (s.endFreeze p).job = s.job := rfl
@[simp] theorem State.endFreeze_op (p : Port) : (s.endFreeze p).op = s.op := rfl
@[simp] theorem State.endFreeze_inReset (p : Port) : (s.endFreeze p).inReset = s.inReset := rfl
@[simp] theorem State.endFreeze_pfw (p : Port) : (s.endFreeze p).pfw = s.pfw := rfl
@[simp] theorem State.endFreeze_straps (p : Port) : (s.endFreeze p).straps = s.straps := rfl
@[simp] theorem State.endFreeze_pending (p : Port) : (s.endFreeze p).pending = s.pending := rfl

/-! ## leaveWaitLists -/

@[simp] theorem State.leaveWaitLists_ports (p : Port) : (s.leaveWaitLists p).ports = s.ports := rfl
@[simp] theorem State.leaveWaitLists_records (p : Port) : (s.leaveWaitLists p).records = s.records := rfl
@[simp] theorem State.leaveWaitLists_windows (p : Port) : (s.leaveWaitLists p).windows = s.windows := rfl
@[simp] theorem State.leaveWaitLists_queue (p : Port) : (s.leaveWaitLists p).queue = s.queue := rfl
@[simp] theorem State.leaveWaitLists_pages (p : Port) : (s.leaveWaitLists p).pages = s.pages := rfl
@[simp] theorem State.leaveWaitLists_pointer (p : Port) : (s.leaveWaitLists p).pointer = s.pointer := rfl
@[simp] theorem State.leaveWaitLists_badCount (p : Port) : (s.leaveWaitLists p).badCount = s.badCount := rfl
@[simp] theorem State.leaveWaitLists_nextSequence (p : Port) : (s.leaveWaitLists p).nextSequence = s.nextSequence := rfl
@[simp] theorem State.leaveWaitLists_census (p : Port) : (s.leaveWaitLists p).census = s.census := rfl
@[simp] theorem State.leaveWaitLists_array (p : Port) : (s.leaveWaitLists p).array = s.array := rfl
@[simp] theorem State.leaveWaitLists_store (p : Port) : (s.leaveWaitLists p).store = s.store := rfl
@[simp] theorem State.leaveWaitLists_recovered (p : Port) : (s.leaveWaitLists p).recovered = s.recovered := rfl
@[simp] theorem State.leaveWaitLists_hold (p : Port) : (s.leaveWaitLists p).hold = s.hold := rfl
@[simp] theorem State.leaveWaitLists_job (p : Port) : (s.leaveWaitLists p).job = s.job := rfl
@[simp] theorem State.leaveWaitLists_op (p : Port) : (s.leaveWaitLists p).op = s.op := rfl
@[simp] theorem State.leaveWaitLists_inReset (p : Port) : (s.leaveWaitLists p).inReset = s.inReset := rfl
@[simp] theorem State.leaveWaitLists_pfw (p : Port) : (s.leaveWaitLists p).pfw = s.pfw := rfl
@[simp] theorem State.leaveWaitLists_straps (p : Port) : (s.leaveWaitLists p).straps = s.straps := rfl
@[simp] theorem State.leaveWaitLists_pending (p : Port) : (s.leaveWaitLists p).pending = s.pending := rfl

/-! ## setPage -/

@[simp] theorem State.setPage_ports (g : PageNo) (e : PageEntry) : (s.setPage g e).ports = s.ports := rfl
@[simp] theorem State.setPage_records (g : PageNo) (e : PageEntry) : (s.setPage g e).records = s.records := rfl
@[simp] theorem State.setPage_windows (g : PageNo) (e : PageEntry) : (s.setPage g e).windows = s.windows := rfl
@[simp] theorem State.setPage_leases (g : PageNo) (e : PageEntry) : (s.setPage g e).leases = s.leases := rfl
@[simp] theorem State.setPage_queue (g : PageNo) (e : PageEntry) : (s.setPage g e).queue = s.queue := rfl
@[simp] theorem State.setPage_pointer (g : PageNo) (e : PageEntry) : (s.setPage g e).pointer = s.pointer := rfl
@[simp] theorem State.setPage_badCount (g : PageNo) (e : PageEntry) : (s.setPage g e).badCount = s.badCount := rfl
@[simp] theorem State.setPage_nextSequence (g : PageNo) (e : PageEntry) : (s.setPage g e).nextSequence = s.nextSequence := rfl
@[simp] theorem State.setPage_census (g : PageNo) (e : PageEntry) : (s.setPage g e).census = s.census := rfl
@[simp] theorem State.setPage_array (g : PageNo) (e : PageEntry) : (s.setPage g e).array = s.array := rfl
@[simp] theorem State.setPage_store (g : PageNo) (e : PageEntry) : (s.setPage g e).store = s.store := rfl
@[simp] theorem State.setPage_recovered (g : PageNo) (e : PageEntry) : (s.setPage g e).recovered = s.recovered := rfl
@[simp] theorem State.setPage_hold (g : PageNo) (e : PageEntry) : (s.setPage g e).hold = s.hold := rfl
@[simp] theorem State.setPage_job (g : PageNo) (e : PageEntry) : (s.setPage g e).job = s.job := rfl
@[simp] theorem State.setPage_op (g : PageNo) (e : PageEntry) : (s.setPage g e).op = s.op := rfl
@[simp] theorem State.setPage_inReset (g : PageNo) (e : PageEntry) : (s.setPage g e).inReset = s.inReset := rfl
@[simp] theorem State.setPage_pfw (g : PageNo) (e : PageEntry) : (s.setPage g e).pfw = s.pfw := rfl
@[simp] theorem State.setPage_straps (g : PageNo) (e : PageEntry) : (s.setPage g e).straps = s.straps := rfl
@[simp] theorem State.setPage_pending (g : PageNo) (e : PageEntry) : (s.setPage g e).pending = s.pending := rfl

/-! ## dropPending -/

@[simp] theorem State.dropPending_ports : (s.dropPending).ports = s.ports := rfl
@[simp] theorem State.dropPending_records : (s.dropPending).records = s.records := rfl
@[simp] theorem State.dropPending_windows : (s.dropPending).windows = s.windows := rfl
@[simp] theorem State.dropPending_leases : (s.dropPending).leases = s.leases := rfl
@[simp] theorem State.dropPending_queue : (s.dropPending).queue = s.queue := rfl
@[simp] theorem State.dropPending_pointer : (s.dropPending).pointer = s.pointer := rfl
@[simp] theorem State.dropPending_badCount : (s.dropPending).badCount = s.badCount := rfl
@[simp] theorem State.dropPending_nextSequence : (s.dropPending).nextSequence = s.nextSequence := rfl
@[simp] theorem State.dropPending_census : (s.dropPending).census = s.census := rfl
@[simp] theorem State.dropPending_array : (s.dropPending).array = s.array := rfl
@[simp] theorem State.dropPending_store : (s.dropPending).store = s.store := rfl
@[simp] theorem State.dropPending_recovered : (s.dropPending).recovered = s.recovered := rfl
@[simp] theorem State.dropPending_hold : (s.dropPending).hold = s.hold := rfl
@[simp] theorem State.dropPending_job : (s.dropPending).job = s.job := rfl
@[simp] theorem State.dropPending_op : (s.dropPending).op = s.op := rfl
@[simp] theorem State.dropPending_inReset : (s.dropPending).inReset = s.inReset := rfl
@[simp] theorem State.dropPending_pfw : (s.dropPending).pfw = s.pfw := rfl
@[simp] theorem State.dropPending_straps : (s.dropPending).straps = s.straps := rfl
@[simp] theorem State.dropPending_pending : (s.dropPending).pending = s.pending := rfl

/-! ## setArray -/

@[simp] theorem State.setArray_ports (g : PageNo) (c : PageContent) : (s.setArray g c).ports = s.ports := rfl
@[simp] theorem State.setArray_records (g : PageNo) (c : PageContent) : (s.setArray g c).records = s.records := rfl
@[simp] theorem State.setArray_windows (g : PageNo) (c : PageContent) : (s.setArray g c).windows = s.windows := rfl
@[simp] theorem State.setArray_leases (g : PageNo) (c : PageContent) : (s.setArray g c).leases = s.leases := rfl
@[simp] theorem State.setArray_queue (g : PageNo) (c : PageContent) : (s.setArray g c).queue = s.queue := rfl
@[simp] theorem State.setArray_pages (g : PageNo) (c : PageContent) : (s.setArray g c).pages = s.pages := rfl
@[simp] theorem State.setArray_pointer (g : PageNo) (c : PageContent) : (s.setArray g c).pointer = s.pointer := rfl
@[simp] theorem State.setArray_badCount (g : PageNo) (c : PageContent) : (s.setArray g c).badCount = s.badCount := rfl
@[simp] theorem State.setArray_nextSequence (g : PageNo) (c : PageContent) : (s.setArray g c).nextSequence = s.nextSequence := rfl
@[simp] theorem State.setArray_census (g : PageNo) (c : PageContent) : (s.setArray g c).census = s.census := rfl
@[simp] theorem State.setArray_store (g : PageNo) (c : PageContent) : (s.setArray g c).store = s.store := rfl
@[simp] theorem State.setArray_recovered (g : PageNo) (c : PageContent) : (s.setArray g c).recovered = s.recovered := rfl
@[simp] theorem State.setArray_hold (g : PageNo) (c : PageContent) : (s.setArray g c).hold = s.hold := rfl
@[simp] theorem State.setArray_job (g : PageNo) (c : PageContent) : (s.setArray g c).job = s.job := rfl
@[simp] theorem State.setArray_op (g : PageNo) (c : PageContent) : (s.setArray g c).op = s.op := rfl
@[simp] theorem State.setArray_inReset (g : PageNo) (c : PageContent) : (s.setArray g c).inReset = s.inReset := rfl
@[simp] theorem State.setArray_pfw (g : PageNo) (c : PageContent) : (s.setArray g c).pfw = s.pfw := rfl
@[simp] theorem State.setArray_straps (g : PageNo) (c : PageContent) : (s.setArray g c).straps = s.straps := rfl
@[simp] theorem State.setArray_pending (g : PageNo) (c : PageContent) : (s.setArray g c).pending = s.pending := rfl

/-! ## setRecord -/

@[simp] theorem State.setRecord_ports (r : RecordNo) (e : RecordEntry) : (s.setRecord r e).ports = s.ports := rfl
@[simp] theorem State.setRecord_windows (r : RecordNo) (e : RecordEntry) : (s.setRecord r e).windows = s.windows := rfl
@[simp] theorem State.setRecord_leases (r : RecordNo) (e : RecordEntry) : (s.setRecord r e).leases = s.leases := rfl
@[simp] theorem State.setRecord_queue (r : RecordNo) (e : RecordEntry) : (s.setRecord r e).queue = s.queue := rfl
@[simp] theorem State.setRecord_pages (r : RecordNo) (e : RecordEntry) : (s.setRecord r e).pages = s.pages := rfl
@[simp] theorem State.setRecord_pointer (r : RecordNo) (e : RecordEntry) : (s.setRecord r e).pointer = s.pointer := rfl
@[simp] theorem State.setRecord_badCount (r : RecordNo) (e : RecordEntry) : (s.setRecord r e).badCount = s.badCount := rfl
@[simp] theorem State.setRecord_nextSequence (r : RecordNo) (e : RecordEntry) : (s.setRecord r e).nextSequence = s.nextSequence := rfl
@[simp] theorem State.setRecord_census (r : RecordNo) (e : RecordEntry) : (s.setRecord r e).census = s.census := rfl
@[simp] theorem State.setRecord_array (r : RecordNo) (e : RecordEntry) : (s.setRecord r e).array = s.array := rfl
@[simp] theorem State.setRecord_store (r : RecordNo) (e : RecordEntry) : (s.setRecord r e).store = s.store := rfl
@[simp] theorem State.setRecord_recovered (r : RecordNo) (e : RecordEntry) : (s.setRecord r e).recovered = s.recovered := rfl
@[simp] theorem State.setRecord_hold (r : RecordNo) (e : RecordEntry) : (s.setRecord r e).hold = s.hold := rfl
@[simp] theorem State.setRecord_job (r : RecordNo) (e : RecordEntry) : (s.setRecord r e).job = s.job := rfl
@[simp] theorem State.setRecord_op (r : RecordNo) (e : RecordEntry) : (s.setRecord r e).op = s.op := rfl
@[simp] theorem State.setRecord_inReset (r : RecordNo) (e : RecordEntry) : (s.setRecord r e).inReset = s.inReset := rfl
@[simp] theorem State.setRecord_pfw (r : RecordNo) (e : RecordEntry) : (s.setRecord r e).pfw = s.pfw := rfl
@[simp] theorem State.setRecord_straps (r : RecordNo) (e : RecordEntry) : (s.setRecord r e).straps = s.straps := rfl
@[simp] theorem State.setRecord_pending (r : RecordNo) (e : RecordEntry) : (s.setRecord r e).pending = s.pending := rfl

/-! ## createCensus -/

@[simp] theorem State.createCensus_ports (q : Sequence) (l : List PageNo) : (s.createCensus q l).ports = s.ports := rfl
@[simp] theorem State.createCensus_records (q : Sequence) (l : List PageNo) : (s.createCensus q l).records = s.records := rfl
@[simp] theorem State.createCensus_windows (q : Sequence) (l : List PageNo) : (s.createCensus q l).windows = s.windows := rfl
@[simp] theorem State.createCensus_leases (q : Sequence) (l : List PageNo) : (s.createCensus q l).leases = s.leases := rfl
@[simp] theorem State.createCensus_queue (q : Sequence) (l : List PageNo) : (s.createCensus q l).queue = s.queue := rfl
@[simp] theorem State.createCensus_pages (q : Sequence) (l : List PageNo) : (s.createCensus q l).pages = s.pages := rfl
@[simp] theorem State.createCensus_pointer (q : Sequence) (l : List PageNo) : (s.createCensus q l).pointer = s.pointer := rfl
@[simp] theorem State.createCensus_badCount (q : Sequence) (l : List PageNo) : (s.createCensus q l).badCount = s.badCount := rfl
@[simp] theorem State.createCensus_nextSequence (q : Sequence) (l : List PageNo) : (s.createCensus q l).nextSequence = s.nextSequence := rfl
@[simp] theorem State.createCensus_array (q : Sequence) (l : List PageNo) : (s.createCensus q l).array = s.array := rfl
@[simp] theorem State.createCensus_store (q : Sequence) (l : List PageNo) : (s.createCensus q l).store = s.store := rfl
@[simp] theorem State.createCensus_recovered (q : Sequence) (l : List PageNo) : (s.createCensus q l).recovered = s.recovered := rfl
@[simp] theorem State.createCensus_hold (q : Sequence) (l : List PageNo) : (s.createCensus q l).hold = s.hold := rfl
@[simp] theorem State.createCensus_job (q : Sequence) (l : List PageNo) : (s.createCensus q l).job = s.job := rfl
@[simp] theorem State.createCensus_op (q : Sequence) (l : List PageNo) : (s.createCensus q l).op = s.op := rfl
@[simp] theorem State.createCensus_inReset (q : Sequence) (l : List PageNo) : (s.createCensus q l).inReset = s.inReset := rfl
@[simp] theorem State.createCensus_pfw (q : Sequence) (l : List PageNo) : (s.createCensus q l).pfw = s.pfw := rfl
@[simp] theorem State.createCensus_straps (q : Sequence) (l : List PageNo) : (s.createCensus q l).straps = s.straps := rfl
@[simp] theorem State.createCensus_pending (q : Sequence) (l : List PageNo) : (s.createCensus q l).pending = s.pending := rfl

/-! ## allocate -/

@[simp] theorem State.allocate_ports (g : PageNo) : (s.allocate g).ports = s.ports := rfl
@[simp] theorem State.allocate_records (g : PageNo) : (s.allocate g).records = s.records := rfl
@[simp] theorem State.allocate_windows (g : PageNo) : (s.allocate g).windows = s.windows := rfl
@[simp] theorem State.allocate_leases (g : PageNo) : (s.allocate g).leases = s.leases := rfl
@[simp] theorem State.allocate_queue (g : PageNo) : (s.allocate g).queue = s.queue := rfl
@[simp] theorem State.allocate_badCount (g : PageNo) : (s.allocate g).badCount = s.badCount := rfl
@[simp] theorem State.allocate_nextSequence (g : PageNo) : (s.allocate g).nextSequence = s.nextSequence := rfl
@[simp] theorem State.allocate_census (g : PageNo) : (s.allocate g).census = s.census := rfl
@[simp] theorem State.allocate_array (g : PageNo) : (s.allocate g).array = s.array := rfl
@[simp] theorem State.allocate_store (g : PageNo) : (s.allocate g).store = s.store := rfl
@[simp] theorem State.allocate_recovered (g : PageNo) : (s.allocate g).recovered = s.recovered := rfl
@[simp] theorem State.allocate_hold (g : PageNo) : (s.allocate g).hold = s.hold := rfl
@[simp] theorem State.allocate_job (g : PageNo) : (s.allocate g).job = s.job := rfl
@[simp] theorem State.allocate_op (g : PageNo) : (s.allocate g).op = s.op := rfl
@[simp] theorem State.allocate_inReset (g : PageNo) : (s.allocate g).inReset = s.inReset := rfl
@[simp] theorem State.allocate_pfw (g : PageNo) : (s.allocate g).pfw = s.pfw := rfl
@[simp] theorem State.allocate_straps (g : PageNo) : (s.allocate g).straps = s.straps := rfl
@[simp] theorem State.allocate_pending (g : PageNo) : (s.allocate g).pending = s.pending := rfl

/-! ## retire -/

@[simp] theorem State.retire_ports (g : PageNo) : (s.retire g).ports = s.ports := rfl
@[simp] theorem State.retire_records (g : PageNo) : (s.retire g).records = s.records := rfl
@[simp] theorem State.retire_windows (g : PageNo) : (s.retire g).windows = s.windows := rfl
@[simp] theorem State.retire_leases (g : PageNo) : (s.retire g).leases = s.leases := rfl
@[simp] theorem State.retire_queue (g : PageNo) : (s.retire g).queue = s.queue := rfl
@[simp] theorem State.retire_pointer (g : PageNo) : (s.retire g).pointer = s.pointer := rfl
@[simp] theorem State.retire_nextSequence (g : PageNo) : (s.retire g).nextSequence = s.nextSequence := rfl
@[simp] theorem State.retire_census (g : PageNo) : (s.retire g).census = s.census := rfl
@[simp] theorem State.retire_array (g : PageNo) : (s.retire g).array = s.array := rfl
@[simp] theorem State.retire_store (g : PageNo) : (s.retire g).store = s.store := rfl
@[simp] theorem State.retire_recovered (g : PageNo) : (s.retire g).recovered = s.recovered := rfl
@[simp] theorem State.retire_hold (g : PageNo) : (s.retire g).hold = s.hold := rfl
@[simp] theorem State.retire_job (g : PageNo) : (s.retire g).job = s.job := rfl
@[simp] theorem State.retire_op (g : PageNo) : (s.retire g).op = s.op := rfl
@[simp] theorem State.retire_inReset (g : PageNo) : (s.retire g).inReset = s.inReset := rfl
@[simp] theorem State.retire_pfw (g : PageNo) : (s.retire g).pfw = s.pfw := rfl
@[simp] theorem State.retire_straps (g : PageNo) : (s.retire g).straps = s.straps := rfl
@[simp] theorem State.retire_pending (g : PageNo) : (s.retire g).pending = s.pending := rfl

/-! ## What each update puts in the field it changes -/

@[simp] theorem State.onPort_ports (p : Port) (f : PortState → PortState) :
    (s.onPort p f).ports = s.ports.set p (f (s.ports.get p)) := rfl

@[simp] theorem State.onPorts_ports (f : PortState → PortState) : (s.onPorts f).ports = s.ports.map f := rfl

@[simp] theorem State.setLease_leases (w : WindowNo) (l : LeaseState) :
    (s.setLease w l).leases = s.leases.set w l := rfl

@[simp] theorem State.setPage_pages (g : PageNo) (e : PageEntry) : (s.setPage g e).pages = s.pages.set g e := rfl

@[simp] theorem State.setArray_array (g : PageNo) (c : PageContent) : (s.setArray g c).array = s.array.set g c := rfl

@[simp] theorem State.setRecord_records (r : RecordNo) (e : RecordEntry) :
    (s.setRecord r e).records = s.records.set r e := rfl

@[simp] theorem State.allocate_pages (g : PageNo) : (s.allocate g).pages = s.pages.set g (.pending none) := rfl

@[simp] theorem State.allocate_pointer (g : PageNo) : (s.allocate g).pointer = nextPage g := rfl

@[simp] theorem State.retire_pages (g : PageNo) : (s.retire g).pages = s.pages.set g .bad := rfl

@[simp] theorem State.retire_badCount (g : PageNo) : (s.retire g).badCount = s.badCount + 1 := rfl

/-- What port `q` holds after a change at port `p`. -/
@[simp] theorem State.port_onPort (p q : Port) (f : PortState → PortState) :
    (s.onPort p f).port q = if q = p then f (s.port q) else s.port q := by
  simp only [State.port, State.onPort_ports, Table.get_set]
  split
  · next h => rw [h]
  · rfl

@[simp] theorem State.port_onPorts (q : Port) (f : PortState → PortState) : (s.onPorts f).port q = f (s.port q) := by
  simp [State.port]

/-- The lease state of window `v` after that of window `w` is replaced. -/
@[simp] theorem State.lease_setLease (v w : WindowNo) (l : LeaseState) :
    (s.setLease w l).lease v = if v = w then l else s.lease v := by
  simp [State.lease]

@[simp] theorem State.page_setPage (g h : PageNo) (e : PageEntry) :
    (s.setPage g e).page h = if h = g then e else s.page h := by
  simp [State.page]

@[simp] theorem State.record_setRecord (r q : RecordNo) (e : RecordEntry) :
    (s.setRecord r e).record q = if q = r then e else s.record q := by
  simp [State.record]

@[simp] theorem State.port_notify (p q : Port) (b : NoticeBody) :
    (s.notify p b).port q
      = if q = p then { s.port q with notices := appendNotice b (s.port q).notices } else s.port q := by
  simp [State.notify]

@[simp] theorem State.port_notifyAll (q : Port) (b : NoticeBody) :
    (s.notifyAll b).port q = { s.port q with notices := appendNotice b (s.port q).notices } := by
  simp [State.notifyAll]

/-- The lease of a window after a freeze: frozen if port `p` holds it and it covers an entry (R112). -/
theorem State.lease_freeze (p : Port) (st : Staging) (w : WindowNo) :
    (s.freeze p st).lease w = match (s.lease w).held with
      | some h => if h.port == p && st.touches s.windows w then { s.lease w with held := some { h with frozen := true } }
        else s.lease w
      | none => s.lease w := by
  simp only [State.lease, State.freeze, Table.get_build] <;>
    (cases (s.leases.get w).held <;> rfl)

/-- The lease of a window after the end of a freeze: loaded and unfrozen if port `p` holds it frozen (R113). -/
theorem State.lease_endFreeze (p : Port) (w : WindowNo) :
    (s.endFreeze p).lease w = match (s.lease w).held with
      | some h => if h.port == p && h.frozen then { s.lease w with held := some ⟨p, s.leaseTime w, false⟩ }
        else s.lease w
      | none => s.lease w := by
  simp only [State.lease, State.endFreeze, Table.get_build] <;>
    (cases (s.leases.get w).held <;> rfl)

/-- No port stands on a wait list twice over: after leaving, port `p` stands on none (R115). -/
theorem State.lease_leaveWaitLists (p : Port) (w : WindowNo) :
    (s.leaveWaitLists p).lease w = { s.lease w with waiters := (s.lease w).waiters.filter fun q => q != p } := by
  simp [State.lease, State.leaveWaitLists]

end Sys2Proof.Machine
end

