-- ==== Sys2Proof/Laws/Ops.lean ====
section
/-!
SUPPORT. One lemma for each shared operation over ports, notices, leases and the Commit Queue. A lemma `<op>_changes`
names every field the operation may change: all others stand in the answer as they stood.
-/

namespace Sys2Proof.Machine

variable (s : State)

/-! ## Notices -/

@[simp] theorem markTail_length (q : List Notice) : (markTail q).length = q.length := by
  induction q using markTail.induct <;> simp_all [markTail]

/-- Setting the tail's loss mark leaves every notice's kind and fields and the order (R127). -/
@[simp] theorem markTail_bodies (q : List Notice) : (markTail q).map Notice.body = q.map Notice.body := by
  induction q using markTail.induct <;> simp_all [markTail]

theorem appendNotice_of_room (b : NoticeBody) (q : List Notice) (h : q.length < 16) :
    appendNotice b q = q ++ [⟨b, false⟩] := by
  simp [appendNotice, Config.noticeDepth, h]

theorem appendNotice_of_full (b : NoticeBody) (q : List Notice) (h : 16 ≤ q.length) : appendNotice b q = markTail q := by
  simp [appendNotice, Config.noticeDepth, Nat.not_lt.mpr h]

/-- A queue within its sixteen entries stays within them (R126, R127). -/
theorem appendNotice_length_le (b : NoticeBody) (q : List Notice) (h : q.length ≤ 16) :
    (appendNotice b q).length ≤ 16 := by
  by_cases hr : q.length < 16
  · rw [appendNotice_of_room b q hr]
    simp
    omega
  · rw [appendNotice_of_full b q (Nat.not_lt.mp hr), markTail_length]
    exact h

theorem State.notify_changes (p : Port) (b : NoticeBody) :
    s.notify p b
      = { s with
          ports := s.ports.set p { s.ports.get p with notices := appendNotice b (s.ports.get p).notices } } := rfl

theorem State.notifyAll_changes (b : NoticeBody) :
    s.notifyAll b = { s with ports := s.ports.map fun c => { c with notices := appendNotice b c.notices } } := rfl

/-- Several notices to one port change that port's queue alone, each appended in turn (R128). -/
theorem State.port_notifyList (p q : Port) (bodies : List NoticeBody) :
    (s.notifyList p bodies).port q
      = if q = p then { s.port q with notices := bodies.foldl (fun l b => appendNotice b l) (s.port q).notices }
        else s.port q := by
  induction bodies generalizing s with
  | nil => split <;> rfl
  | cons b rest ih =>
    have : s.notifyList p (b :: rest) = (s.notify p b).notifyList p rest := rfl
    rw [this, ih]
    split
    · next h => simp [h]
    · next h => simp [h]

/-- A fold of operations that each change the ports alone changes the ports alone. -/
theorem foldl_ports {α : Type} (f : State → α → State)
    (h : ∀ (t : State) a, ∃ ports, f t a = { t with ports := ports }) (l : List α) :
    ∃ ports, l.foldl f s = { s with ports := ports } := by
  induction l generalizing s with
  | nil => exact ⟨s.ports, rfl⟩
  | cons a rest ih =>
    obtain ⟨p, hp⟩ := h s a
    obtain ⟨q, hq⟩ := ih (f s a)
    exact ⟨q, by rw [List.foldl_cons, hq, hp]⟩

/-- A fold of operations that each change the ports and leases alone changes those alone. -/
theorem foldl_ports_leases {α : Type} (f : State → α → State)
    (h : ∀ (t : State) a, ∃ ports leases, f t a = { t with ports := ports, leases := leases }) (l : List α) :
    ∃ ports leases, l.foldl f s = { s with ports := ports, leases := leases } := by
  induction l generalizing s with
  | nil => exact ⟨s.ports, s.leases, rfl⟩
  | cons a rest ih =>
    obtain ⟨p, u, hp⟩ := h s a
    obtain ⟨q, v, hq⟩ := ih (f s a)
    exact ⟨q, v, by rw [List.foldl_cons, hq, hp]⟩

theorem State.notifyList_changes (p : Port) (bodies : List NoticeBody) :
    ∃ ports, s.notifyList p bodies = { s with ports := ports } :=
  foldl_ports s _ (fun _ _ => ⟨_, rfl⟩) bodies

/-! ## Serving a request -/

/-- In device reset a request passes unheeded (R82). -/
theorem serve_in_reset (p : Port) (n : Nat) (body : State → State × ResultHolder) (h : s.inReset = true) :
    serve p n body s = .next s := by
  simp [serve, h]

/-- Out of device reset a request ends its frame, has its effect, and its result replaces the holder (R146, R149). -/
theorem serve_eq (p : Port) (n : Nat) (body : State → State × ResultHolder) (h : s.inReset = false) :
    serve p n body s
      = .next ((body (s.onPort p (PortState.endGoodFrame n))).1.onPort p
          fun c => { c with holder := (body (s.onPort p (PortState.endGoodFrame n))).2 }) := by
  simp [serve, h]

/-! ## Leases -/

theorem State.loadTimer_changes (w : WindowNo) : ∃ leases, s.loadTimer w = { s with leases := leases } := by
  unfold State.loadTimer
  split
  · exact ⟨_, rfl⟩
  · exact ⟨s.leases, rfl⟩

/-- The lease of a window after a load: the holder's timer at the window's lease time (R105). -/
theorem State.lease_loadTimer (v w : WindowNo) :
    (s.loadTimer w).lease v
      = if v = w then { s.lease w with held := (s.lease w).held.map fun h => { h with timer := s.leaseTime w } }
        else s.lease v := by
  unfold State.loadTimer
  split
  · next h e => simp [e]
  · next e =>
    split
    · next h =>
      subst h
      rw [e, Option.map_none, ← e]
    · rfl

theorem State.passOn_changes (w : WindowNo) :
    ∃ ports leases, s.passOn w = { s with ports := ports, leases := leases } := by
  unfold State.passOn
  split
  · exact ⟨s.ports, _, rfl⟩
  · exact ⟨_, _, rfl⟩

/-- The lease of a window after it passes on: to the oldest waiter with a loaded timer, or free (R106). -/
theorem State.lease_passOn (v w : WindowNo) :
    (s.passOn w).lease v
      = if v = w then match (s.lease w).waiters with
          | [] => .free
          | q :: rest => ⟨some ⟨q, s.leaseTime w, false⟩, rest⟩
        else s.lease v := by
  unfold State.passOn
  cases e : (s.lease w).waiters with
  | nil => simp
  | cons q rest => simp only [State.lease, State.notify_leases, State.setLease_leases, Table.get_set]

theorem State.expire_changes (w : WindowNo) :
    ∃ ports leases, s.expire w = { s with ports := ports, leases := leases } := by
  unfold State.expire
  split
  · next h e =>
    obtain ⟨p, l, hp⟩ := (s.notify h.port (.leaseExpired w)).passOn_changes w
    exact ⟨p, l, by rw [hp]; rfl⟩
  · exact ⟨s.ports, s.leases, rfl⟩

theorem State.tickWindow_changes (w : WindowNo) :
    ∃ ports leases, s.tickWindow w = { s with ports := ports, leases := leases } := by
  unfold State.tickWindow
  split
  · split
    · exact ⟨s.ports, s.leases, rfl⟩
    · split
      · exact s.expire_changes w
      · exact ⟨s.ports, _, rfl⟩
  · exact ⟨s.ports, s.leases, rfl⟩

theorem State.tick_changes : ∃ ports leases, s.tick = { s with ports := ports, leases := leases } :=
  foldl_ports_leases s _ (fun t w => t.tickWindow_changes w) allWindows

theorem State.passOnAll_changes (p : Port) :
    ∃ ports leases, s.passOnAll p = { s with ports := ports, leases := leases } := by
  refine foldl_ports_leases s _ (fun t w => ?_) _
  split
  · exact t.passOn_changes w
  · exact ⟨t.ports, t.leases, rfl⟩

/-! ## The Commit Queue -/

theorem State.submit_fst (p : Port) (st : Staging) :
    (s.submit p st).1
      = { s with
          ports := s.ports.set p { s.ports.get p with
            txn := .queued, staging := st, tokenCounter := (s.ports.get p).tokenCounter + 1 }
          queue := s.queue ++ [⟨p, (s.ports.get p).tokenCounter + 1, st⟩] } := rfl

theorem State.submit_snd (p : Port) (st : Staging) :
    (s.submit p st).2 = .result .queued [(s.port p).tokenCounter + 1, byteOf (s.queue.length + 1)] := rfl

theorem State.failQueued_changes (e : QueueEntry) (r : FailReason) (record : Option HostRecord) (tell : Bool) :
    ∃ ports leases, s.failQueued e r record tell
      = { s with ports := ports, leases := leases, queue := s.queue.filter fun x => x.port != e.port } := by
  unfold State.failQueued
  cases tell <;> exact ⟨_, _, rfl⟩

/-- Another port's context is untouched when a commit leaves the queue. -/
theorem State.port_failQueued_ne (e : QueueEntry) (r : FailReason) (record : Option HostRecord) (tell : Bool)
    (q : Port) (h : q ≠ e.port) : (s.failQueued e r record tell).port q = s.port q := by
  unfold State.failQueued
  cases tell <;> simp [State.port, State.onPort, State.notify, h]

/-- The port whose commit leaves the queue: NONE, list discarded, last outcome set, and the notice if one is sent (R51,
R53). -/
theorem State.port_failQueued_self (e : QueueEntry) (r : FailReason) (record : Option HostRecord) (tell : Bool) :
    (s.failQueued e r record tell).port e.port
      = { s.port e.port with
          txn := .none, staging := .records [], lastOutcome := ⟨some e.token, .failed r, none⟩
          notices := if tell then appendNotice (.commitFailed e.token r record) (s.port e.port).notices
            else (s.port e.port).notices } := by
  unfold State.failQueued
  cases tell <;> simp [State.port, State.onPort, State.notify, PortState.failCommit]

theorem State.failAllQueued_changes (r : FailReason) :
    ∃ ports leases queue, s.failAllQueued r = { s with ports := ports, leases := leases, queue := queue } := by
  unfold State.failAllQueued
  generalize s.queue = l
  induction l generalizing s with
  | nil => exact ⟨s.ports, s.leases, s.queue, rfl⟩
  | cons e rest ih =>
    obtain ⟨p, u, hp⟩ := s.failQueued_changes e r none true
    obtain ⟨q, v, x, hq⟩ := ih (s.failQueued e r none true)
    exact ⟨q, v, x, by rw [List.foldl_cons, hq, hp]⟩

/-- The queue is empty once every queued commit has failed (R51). -/
theorem State.failAllQueued_queue (r : FailReason) : (s.failAllQueued r).queue = [] := by
  have aux : ∀ (l : List QueueEntry) (t : State),
      (l.foldl (fun s e => s.failQueued e r none true) t).queue
        = t.queue.filter fun x => l.all fun e => x.port != e.port := by
    intro l
    induction l with
    | nil => intro t; simp
    | cons e rest ih =>
      intro t
      obtain ⟨p, u, hp⟩ := t.failQueued_changes e r none true
      rw [List.foldl_cons, ih, hp, List.filter_filter]
      simp [Bool.and_comm]
  unfold State.failAllQueued
  rw [aux, List.filter_eq_nil_iff]
  intro a ha
  simp only [List.all_eq_true, not_forall]
  exact ⟨a, ha, by simp⟩

theorem State.enterReadOnly_changes (r : ReadOnlyReason) :
    ∃ ports leases, s.enterReadOnly r
      = { s with ports := ports, leases := leases, queue := [], store := .readOnly r } := by
  unfold State.enterReadOnly
  have hq := ((({ s with store := .readOnly r }).notifyAll (.storeState (.readOnly r)))).failAllQueued_queue .readOnly
  obtain ⟨p, l, q, h⟩ :=
    ((({ s with store := .readOnly r }).notifyAll (.storeState (.readOnly r)))).failAllQueued_changes .readOnly
  rw [h] at hq ⊢
  refine ⟨p, l, ?_⟩
  simp only at hq
  subst hq
  rfl

/-! ## Scans -/

/-- The end of area scans changes nothing of a port but the end reason of a cursor of scope AREA (R17). -/
theorem PortState.endAreaScan_holder (c : PortState) :
    c.endAreaScan = { c with holder := match c.holder with
      | .scan cursor => .scan cursor.endLayout
      | .empty => .empty
      | .result st payload => .result st payload } := by
  unfold PortState.endAreaScan
  cases h : c.holder <;> simp [← h]

end Sys2Proof.Machine
end

