-- ==== Sys2Proof/Laws/Jobs.lean ====
section
/-!
SUPPORT. One lemma for each shared operation over pages, records, the Census, jobs, the format and the mount. A lemma
`<op>_changes` names every field the operation may change: all others stand in the answer as they stood.
-/

namespace Sys2Proof.Machine

variable (s : State)

/-! ## Allocation -/

/-- Every page is met in the search of R24. -/
theorem mem_searchOrder (pointer g : PageNo) : g ∈ searchOrder pointer := by
  unfold searchOrder allPages
  rw [List.mem_append]
  by_cases h : pointer ≤ g
  · left
    simp [h]
  · right
    simp [not_le.mp h]

/-- The page found is CLEAN (R24). -/
theorem State.findClean_isClean {g : PageNo} (h : s.findClean = some g) : (s.page g).isClean = true := by
  unfold State.findClean at h
  exact List.find?_some (p := fun g => (s.page g).isClean) h

/-- No page is found exactly when none is CLEAN (R24). -/
theorem State.findClean_none_iff : s.findClean = none ↔ ∀ g, (s.page g).isClean = false := by
  unfold State.findClean
  rw [List.find?_eq_none]
  constructor
  · intro h g
    simpa using h g (mem_searchOrder s.pointer g)
  · intro h g _
    simp [h g]

/-- The STALE page found is STALE, and no page of lower number is. -/
theorem State.lowestStale_isStale {g : PageNo} (h : s.lowestStale = some g) : (s.page g).isStale = true := by
  unfold State.lowestStale at h
  exact List.find?_some (p := fun g => (s.page g).isStale) h

theorem State.lowestStale_none_iff : s.lowestStale = none ↔ ∀ g, (s.page g).isStale = false := by
  unfold State.lowestStale allPages
  rw [List.find?_eq_none]
  simp

/-! ## The pin rule and records -/

theorem State.makeStale_changes (l : List PageNo) : ∃ pages, s.makeStale l = { s with pages := pages } := by
  unfold State.makeStale
  induction l generalizing s with
  | nil => exact ⟨s.pages, rfl⟩
  | cons g rest ih =>
    obtain ⟨p, hp⟩ := ih (s.setPage g .stale)
    exact ⟨p, by rw [List.foldl_cons, hp]; rfl⟩

theorem State.supersede_changes (g : PageNo) (q : Sequence) :
    ∃ pages census, s.supersede g q = { s with pages := pages, census := census } := by
  unfold State.supersede
  cases s.census.find? fun e => e.sequence == q with
  | none => exact ⟨_, s.census, rfl⟩
  | some e =>
    by_cases h : (e.unlive g).live = 0
    · simp only [h, if_true]
      obtain ⟨p, hp⟩ := s.makeStale_changes ((e.unlive g).pages.map CensusPage.page)
      exact ⟨p, _, by rw [hp]⟩
    · simp only [h, if_false]
      exact ⟨_, _, rfl⟩

theorem State.supersedeRecord_changes (r : RecordNo) :
    ∃ pages census, s.supersedeRecord r = { s with pages := pages, census := census } := by
  unfold State.supersedeRecord
  split
  · exact s.supersede_changes _ _
  · exact ⟨s.pages, s.census, rfl⟩

/-- An image that takes effect sets the entry of its own record and changes pages and the Census (R5, R6, R9). -/
theorem State.takeEffect_changes (i : PageImage) (g : PageNo) :
    ∃ pages census, s.takeEffect i g
      = { s with
          pages := pages
          census := census
          records := match i.header.record with
            | some r => s.records.set r ((s.record r).switched i g)
            | none => s.records } := by
  unfold State.takeEffect
  cases h : i.header.record with
  | none => exact ⟨s.pages, s.census, rfl⟩
  | some r =>
    obtain ⟨p, c, hp⟩ := s.supersedeRecord_changes r
    simp only
    rw [hp]
    exact ⟨_, c, rfl⟩

theorem State.takeEffectAll_changes (images : List PageImage) (pages : List PageNo) :
    ∃ p c r, s.takeEffectAll images pages = { s with pages := p, census := c, records := r } := by
  unfold State.takeEffectAll
  generalize images.zip pages = l
  induction l generalizing s with
  | nil => exact ⟨s.pages, s.census, s.records, rfl⟩
  | cons x rest ih =>
    obtain ⟨p, c, h⟩ := s.takeEffect_changes x.1 x.2
    obtain ⟨q, d, r, hq⟩ := ih (s.takeEffect x.1 x.2)
    exact ⟨q, d, r, by rw [List.foldl_cons, hq, h]⟩

/-- A relocated image leaves state, version and data of its record's entry (R9, R77). -/
theorem RecordEntry.switched_of_relocated (e : RecordEntry) (i : PageImage) (g : PageNo)
    (h : i.header.relocated = true) : e.switched i g = e.moveTo g i.header.sequence := by
  simp [RecordEntry.switched, h]

@[simp] theorem RecordEntry.moveTo_version (e : RecordEntry) (g : PageNo) (q : Sequence) :
    (e.moveTo g q).version = e.version := by
  cases e <;> rfl

@[simp] theorem RecordEntry.moveTo_payload (e : RecordEntry) (g : PageNo) (q : Sequence) :
    (e.moveTo g q).payload = e.payload := by
  cases e <;> rfl

@[simp] theorem RecordEntry.moveTo_stateCode (e : RecordEntry) (g : PageNo) (q : Sequence) :
    (e.moveTo g q).stateCode = e.stateCode := by
  cases e <;> rfl

/-! ## The end of a job -/

/-- The end of a job frees the engine; a READY store over the media limit enters READ_ONLY (R32). -/
theorem State.endJob_changes :
    ∃ ports leases queue store, s.endJob
      = { s with ports := ports, leases := leases, queue := queue, store := store, job := .idle, op := none } := by
  unfold State.endJob
  simp only
  split
  · obtain ⟨p, l, h⟩ := ({ s with job := .idle, op := none } : State).enterReadOnly_changes .media
    rw [h]
    exact ⟨p, l, _, _, rfl⟩
  · exact ⟨s.ports, s.leases, s.queue, s.store, rfl⟩

/-- A job that ends within the media limit, or in a store that is not READY, changes nothing else (R32, R160). -/
theorem State.endJob_of_within (h : s.store ≠ .ready ∨ s.badCount ≤ 32) :
    s.endJob = { s with job := .idle, op := none } := by
  unfold State.endJob
  simp only
  rw [if_neg]
  rintro ⟨h1, h2⟩
  cases h with
  | inl h => exact h h1
  | inr h =>
    simp only [Config.badLimit] at h2
    omega

theorem State.dropPending_changes : ∃ pages, s.dropPending = { s with pages := pages } := ⟨_, rfl⟩

/-- The MEDIA failure of a commit touches no record, Census entry or array page (R58). -/
theorem State.commitMediaFailure_changes (p : Port) (token : Token) :
    ∃ ports leases queue store pages, s.commitMediaFailure p token
      = { s with
          ports := ports, leases := leases, queue := queue, store := store, pages := pages, job := .idle, op := none } := by
  unfold State.commitMediaFailure
  obtain ⟨a, b, c, d, h⟩ :=
    (((s.dropPending.onPort p (PortState.failCommit token .media)).notify p
      (.commitFailed token .media none)).endFreeze p).endJob_changes
  exact ⟨a, b, c, d, _, by rw [h]; rfl⟩

theorem State.relocationMediaFailure_changes :
    ∃ ports leases queue store pages, s.relocationMediaFailure
      = { s with
          ports := ports, leases := leases, queue := queue, store := store, pages := pages, job := .idle, op := none } := by
  unfold State.relocationMediaFailure
  obtain ⟨a, b, c, d, h⟩ := s.dropPending.endJob_changes
  exact ⟨a, b, c, d, _, by rw [h]; rfl⟩

/-- The next image of a run: suspended while PFW is asserted, nothing left, no CLEAN page, or a page allocated and its
program issued (R24, R56, R97). -/
theorem State.programNext_cases (run : ImageRun) (fail : State → State) :
    s.programNext run fail = { s with op := none }
      ∨ (s.pfw = false ∧ s.findClean = none ∧ s.programNext run fail = fail { s with op := none })
      ∨ ∃ i g, s.pfw = false ∧ run.nextImage = some i ∧ s.findClean = some g
          ∧ s.programNext run fail = { s.allocate g with op := some (.program g i) } := by
  unfold State.programNext
  cases hp : s.pfw with
  | true => exact .inl rfl
  | false =>
    cases hi : run.nextImage with
    | none => exact .inl rfl
    | some i =>
      cases hg : s.findClean with
      | none => exact .inr (.inl ⟨rfl, rfl, rfl⟩)
      | some g => exact .inr (.inr ⟨i, g, rfl, rfl, rfl, rfl⟩)

/-! ## Commit points -/

theorem State.sendChanged_changes (st : Staging) (p : Port) (q : Sequence) :
    ∃ ports, s.sendChanged st p q = { s with ports := ports } := by
  refine foldl_ports s _ (fun t o => ?_) _
  split
  · exact ⟨t.ports, rfl⟩
  · exact t.notifyList_changes o _

theorem State.sendLayoutChanged_changes (w : WindowNo) (reason : LayoutReason) (p : Port) (q : Sequence) :
    ∃ ports, s.sendLayoutChanged w reason p q = { s with ports := ports } := by
  refine foldl_ports s _ (fun t o => ?_) _
  split
  · exact ⟨t.ports, rfl⟩
  · exact ⟨_, rfl⟩

theorem State.switchWindows_changes (images : List PageImage) :
    ∃ windows, s.switchWindows images = { s with windows := windows } := by
  unfold State.switchWindows
  split
  · exact ⟨_, rfl⟩
  · exact ⟨s.windows, rfl⟩
  · exact ⟨s.windows, rfl⟩
  · exact ⟨s.windows, rfl⟩

theorem State.settleLease_changes (w : WindowNo) :
    ∃ ports leases, s.settleLease w = { s with ports := ports, leases := leases } := by
  unfold State.settleLease
  split
  · exact ⟨s.ports, s.leases, rfl⟩
  · split
    · exact ⟨_, _, rfl⟩
    · exact ⟨s.ports, s.leases, rfl⟩

theorem State.settleWatches_changes (w : WindowNo) (reason : LayoutReason) :
    ∃ ports, s.settleWatches w reason = { s with ports := ports } := by
  cases reason
  · exact ⟨s.ports, rfl⟩
  · exact ⟨_, rfl⟩

/-- What a commit point announces: ports and leases, and for a layout commit the Window Table (R60, R121, R122). -/
theorem State.announce_changes (p : Port) (st : Staging) (run : ImageRun) :
    ∃ ports leases windows, s.announce p st run
      = { s with ports := ports, leases := leases, windows := windows } := by
  unfold State.announce
  cases st.layoutEntry with
  | none =>
    obtain ⟨a, h⟩ := s.sendChanged_changes st p run.sequence
    exact ⟨a, s.leases, s.windows, h⟩
  | some x =>
    obtain ⟨w, hw⟩ := s.switchWindows_changes run.images
    obtain ⟨a, ha⟩ := (s.switchWindows run.images).settleWatches_changes x.1 x.2
    obtain ⟨b, hb⟩ := (((s.switchWindows run.images).settleWatches x.1 x.2).onPorts
      PortState.endAreaScan).sendLayoutChanged_changes x.1 x.2 p run.sequence
    obtain ⟨c, d, hc⟩ := ((((s.switchWindows run.images).settleWatches x.1 x.2).onPorts
      PortState.endAreaScan).sendLayoutChanged x.1 x.2 p run.sequence).settleLease_changes x.1
    refine ⟨c, d, w, ?_⟩
    simp only
    rw [hc, hb, ha, hw]
    rfl

/-- A record commit leaves the Window Table (R102). -/
theorem State.announce_windows_of_records (p : Port) (es : List StagedEntry) (run : ImageRun) :
    (s.announce p (.records es) run).windows = s.windows := by
  obtain ⟨a, h⟩ := s.sendChanged_changes (.records es) p run.sequence
  simp only [State.announce, Staging.layoutEntry]
  rw [h]

theorem State.commitPoint_changes (p : Port) (token : Token) (st : Staging) (run : ImageRun) :
    ∃ ports leases windows queue store pages census, s.commitPoint p token st run
      = { s with
          ports := ports, leases := leases, windows := windows, queue := queue, store := store, pages := pages
          census := census, records := (s.takeEffectAll run.images run.verified).records, job := .idle, op := none } := by
  unfold State.commitPoint
  simp only
  obtain ⟨g, c, r, ht⟩ := s.takeEffectAll_changes run.images run.verified
  rw [ht]
  obtain ⟨a, b, w, ha⟩ :=
    ((((({ s with pages := g, census := c, records := r } : State).createCensus run.sequence run.verified).onPort p
      (PortState.completeCommit token run.sequence)).notify p (.commitDone token st.count run.sequence))).announce_changes
      p st run
  rw [ha]
  obtain ⟨x, y, z, v, hx⟩ := State.endJob_changes (State.endFreeze _ p)
  exact ⟨x, y, w, z, v, g, _, by rw [hx]; rfl⟩

theorem State.relocationPoint_changes (run : ImageRun) :
    ∃ ports leases queue store pages census, s.relocationPoint run
      = { s with
          ports := ports, leases := leases, queue := queue, store := store, pages := pages
          census := census, records := (s.takeEffectAll run.images run.verified).records, job := .idle, op := none } := by
  unfold State.relocationPoint
  obtain ⟨g, c, r, ht⟩ := s.takeEffectAll_changes run.images run.verified
  rw [ht]
  obtain ⟨x, y, z, v, hx⟩ := State.endJob_changes
    (({ s with pages := g, census := c, records := r } : State).createCensus run.sequence run.verified)
  exact ⟨x, y, z, v, g, _, by rw [hx]; rfl⟩

/-! ## The job choice -/

/-- A run's next program changes, beside what the job is, pages, the pointer, and what a MEDIA failure changes. -/
theorem State.programNext_changes (run : ImageRun) (fail : State → State)
    (hf : ∀ t : State, ∃ ports leases queue store pages, fail t
      = { t with
          ports := ports, leases := leases, queue := queue, store := store, pages := pages, job := .idle, op := none }) :
    ∃ ports leases queue store pages pointer job op, s.programNext run fail
      = { s with
          ports := ports, leases := leases, queue := queue, store := store, pages := pages, pointer := pointer
          job := job, op := op } := by
  rcases s.programNext_cases run fail with h | ⟨_, _, h⟩ | ⟨i, g, _, _, _, h⟩
  · exact ⟨s.ports, s.leases, s.queue, s.store, s.pages, s.pointer, s.job, none, h⟩
  · obtain ⟨a, b, c, d, e, hf⟩ := hf { s with op := none }
    exact ⟨a, b, c, d, e, s.pointer, _, _, by rw [h, hf]⟩
  · exact ⟨s.ports, s.leases, s.queue, s.store, _, _, s.job, _, h⟩

theorem State.startCommit_changes (e : QueueEntry) :
    ∃ ports leases queue store pages pointer job op next, s.startCommit e
      = { s with
          ports := ports, leases := leases, queue := queue, store := store, pages := pages, pointer := pointer
          job := job, op := op, nextSequence := next } := by
  unfold State.startCommit
  split
  · obtain ⟨a, b, h⟩ := s.enterReadOnly_changes .sequence
    exact ⟨a, b, _, _, s.pages, s.pointer, s.job, s.op, s.nextSequence, h⟩
  · obtain ⟨a, b, c, d, g, r, j, o, h⟩ := State.programNext_changes
      (({ s with
        nextSequence := s.nextSequence + 1
        queue := s.queue.filter fun x => x.port != e.port
        job := .commit e.port e.token e.staging
          ⟨s.nextSequence, s.commitImages s.nextSequence e.staging, [], 0⟩ } : State).onPort e.port
        fun c => { c with txn := .running })
      ⟨s.nextSequence, s.commitImages s.nextSequence e.staging, [], 0⟩
      (fun u => u.commitMediaFailure e.port e.token) (fun t => t.commitMediaFailure_changes e.port e.token)
    exact ⟨a, b, c, d, g, r, j, o, _, by rw [h]; rfl⟩

theorem State.startRelocation_changes (e : CensusEntry) :
    ∃ ports leases queue store pages pointer job op next, s.startRelocation e
      = { s with
          ports := ports, leases := leases, queue := queue, store := store, pages := pages, pointer := pointer
          job := job, op := op, nextSequence := next } := by
  unfold State.startRelocation
  split
  · obtain ⟨a, b, h⟩ := s.enterReadOnly_changes .sequence
    exact ⟨a, b, _, _, s.pages, s.pointer, s.job, s.op, s.nextSequence, h⟩
  · obtain ⟨a, b, c, d, g, r, j, o, h⟩ := State.programNext_changes
      ({ s with
        nextSequence := s.nextSequence + 1
        job := .relocate e.sequence
          ⟨s.nextSequence,
            s.copyImages s.nextSequence ((e.pages.filter CensusPage.live).map CensusPage.page).length 1
              ((e.pages.filter CensusPage.live).map CensusPage.page), [], 0⟩ } : State)
      ⟨s.nextSequence,
        s.copyImages s.nextSequence ((e.pages.filter CensusPage.live).map CensusPage.page).length 1
          ((e.pages.filter CensusPage.live).map CensusPage.page), [], 0⟩
      State.relocationMediaFailure (fun t => t.relocationMediaFailure_changes)
    exact ⟨a, b, c, d, g, r, j, o, _, by rw [h]⟩

theorem State.issueErase_changes (g : PageNo) :
    s.issueErase g = { s with op := if s.pfw then none else some (.erase g) } := by
  unfold State.issueErase
  split <;> rfl

theorem State.startErase_changes (g : PageNo) :
    s.startErase g = { s with job := .erase g, op := if s.pfw then none else some (.erase g) } := by
  unfold State.startErase
  rw [State.issueErase_changes]

/-- A job choice changes no record, window, Census entry, array page or flag. -/
theorem State.chooseIdle_changes :
    ∃ ports leases queue store pages pointer job op next, s.chooseIdle
      = { s with
          ports := ports, leases := leases, queue := queue, store := store, pages := pages, pointer := pointer
          job := job, op := op, nextSequence := next } := by
  unfold State.chooseIdle
  split
  · rw [State.startErase_changes]
    exact ⟨s.ports, s.leases, s.queue, s.store, s.pages, s.pointer, _, _, s.nextSequence, rfl⟩
  · split
    · split
      · exact s.startRelocation_changes _
      · exact ⟨s.ports, s.leases, s.queue, s.store, s.pages, s.pointer, _, _, s.nextSequence, rfl⟩
    · exact ⟨s.ports, s.leases, s.queue, s.store, s.pages, s.pointer, _, _, s.nextSequence, rfl⟩

theorem State.chooseWaiting_changes :
    ∃ ports leases queue store pages pointer job op next, s.chooseWaiting
      = { s with
          ports := ports, leases := leases, queue := queue, store := store, pages := pages, pointer := pointer
          job := job, op := op, nextSequence := next } := by
  unfold State.chooseWaiting
  split
  · rw [State.startErase_changes]
    exact ⟨s.ports, s.leases, s.queue, s.store, s.pages, s.pointer, _, _, s.nextSequence, rfl⟩
  · split
    · exact s.startRelocation_changes _
    · obtain ⟨a, b, h⟩ := s.enterReadOnly_changes .space
      exact ⟨a, b, _, _, s.pages, s.pointer, s.job, s.op, s.nextSequence, h⟩

theorem State.takeUp_changes (l : List QueueEntry) :
    ∃ ports leases queue store pages pointer job op next, s.takeUp l
      = { s with
          ports := ports, leases := leases, queue := queue, store := store, pages := pages, pointer := pointer
          job := job, op := op, nextSequence := next } := by
  induction l generalizing s with
  | nil => exact s.chooseIdle_changes
  | cons e rest ih =>
    unfold State.takeUp
    cases s.validate e with
    | some f =>
      obtain ⟨a, b, h⟩ := s.failQueued_changes e f.1 f.2 true
      obtain ⟨c, d, q, t, g, r, j, o, n, h2⟩ := ih (s.failQueued e f.1 f.2 true)
      exact ⟨c, d, q, t, g, r, j, o, n, by simp only; rw [h2, h]⟩
    | none =>
      simp only
      split
      · exact s.startCommit_changes e
      · exact s.chooseWaiting_changes

/-! ## The format -/

theorem State.settleNoted_changes (noted : List NotedErase) :
    ∃ pages bad, s.settleNoted noted = { s with pages := pages, badCount := bad } := by
  unfold State.settleNoted
  induction noted generalizing s with
  | nil => exact ⟨s.pages, s.badCount, rfl⟩
  | cons n rest ih =>
    rw [List.foldl_cons]
    split
    · obtain ⟨p, b, h⟩ := ih (s.setPage n.page .clean)
      exact ⟨p, b, by rw [h]; rfl⟩
    · obtain ⟨p, b, h⟩ := ih (s.retire n.page)
      exact ⟨p, b, by rw [h]; rfl⟩

/-- The end of the format (R168): what it sets, whatever was noted. -/
theorem State.formatEnd_changes (noted : List NotedErase) :
    ∃ ports store pages bad, s.formatEnd noted
      = { s with
          ports := ports, store := store, pages := pages, badCount := bad, records := .fill 129 .unwritten
          windows := .fill 16 none, census := [], nextSequence := 1, pointer := 0, recovered := false
          job := .idle, op := none } := by
  unfold State.formatEnd
  obtain ⟨p, b, h⟩ := s.settleNoted_changes noted
  simp only
  rw [h]
  exact ⟨_, _, p, b, rfl⟩

/-- The second step of a format issues an erase, is suspended, or is the end of the format (R167, R168). -/
theorem State.sweep_cases (next : Nat) (epochPage : Option PageNo) (noted : List NotedErase) :
    (∃ job op, s.sweep next epochPage noted = { s with job := job, op := op })
      ∨ s.sweep next epochPage noted = s.formatEnd noted := by
  unfold State.sweep
  split
  · exact .inl ⟨_, _, State.issueErase_changes _ _⟩
  · split
    · exact .inl ⟨_, _, State.issueErase_changes _ _⟩
    · exact .inr rfl

/-- An attempt at the epoch page changes pages, the pointer and the job, or goes on to the second step (R166). -/
theorem State.epochAttempt_cases (q : Sequence) (failures : Nat) (noted : List NotedErase) :
    (∃ pages pointer job op, s.epochAttempt q failures noted
        = { s with pages := pages, pointer := pointer, job := job, op := op })
      ∨ s.epochAttempt q failures noted = s.sweep 0 none noted
      ∨ s.epochAttempt q failures noted
        = ({ s with job := .format (.epoch q failures) noted } : State).sweep 0 none noted := by
  unfold State.epochAttempt
  simp only
  split
  · exact .inr (.inl rfl)
  · split
    · exact .inl ⟨s.pages, s.pointer, _, _, rfl⟩
    · split
      · exact .inl ⟨_, _, _, _, rfl⟩
      · split
        · exact .inl ⟨s.pages, s.pointer, _, _, rfl⟩
        · exact .inr (.inr rfl)

/-! ## The mount -/

/-- The mount rebuilds these fields and no others; the array is read only (R85, R91, R92). -/
theorem State.rebuild_changes (verdicts : Table PageVerdict 320) :
    ∃ pages records windows census pointer next bad recovered, s.rebuild verdicts
      = { s with
          pages := pages, records := records, windows := windows, census := census, pointer := pointer
          nextSequence := next, badCount := bad, recovered := recovered } := ⟨_, _, _, _, _, _, _, _, rfl⟩

/-- A page that is BLANK, RETIRED or DAMAGED is classified by its verdict alone (R86). -/
theorem mountedPages_of_verdict (verdicts : Table PageVerdict 320) (complete : List Found) (epoch : Bool) (g : PageNo) :
    (verdicts.get g = .blank → (mountedPages verdicts complete epoch).get g = .clean)
      ∧ (verdicts.get g = .retired → (mountedPages verdicts complete epoch).get g = .bad)
      ∧ (verdicts.get g = .damaged → (mountedPages verdicts complete epoch).get g = .stale) := by
  unfold mountedPages
  simp only [Table.get_build]
  cases epoch <;> simp only [Bool.false_eq_true, if_false, if_true, mountedEntry, epochMountedEntry] <;>
    refine ⟨fun h => ?_, fun h => ?_, fun h => ?_⟩ <;> rw [h]

/-! ## The page check -/

/-- An image that a job programs carries the check of its fields, whatever the check's function is (R21). -/
@[simp] theorem PageImage.checked_agrees (h : Header) (d : Payload) : (PageImage.checked h d).agrees = true := by
  simp [PageImage.agrees, PageImage.checked]

@[simp] theorem PageImage.checked_header (h : Header) (d : Payload) : (PageImage.checked h d).header = h := rfl
@[simp] theorem PageImage.checked_payload (h : Header) (d : Payload) : (PageImage.checked h d).payload = d := rfl

/-- The verdict on a page that holds an image: VALID with that image exactly when its check agrees and its fields lie within
their ranges, else DAMAGED (R21). -/
theorem PageContent.verdict_programmed (i : PageImage) :
    (PageContent.programmed i).verdict = if i.agrees = true ∧ i.inRange = true then .valid i else .damaged := by
  simp only [PageContent.verdict, Bool.and_eq_true]

/-- A page whose image has its own check reads VALID when its fields lie within their ranges (R21). -/
theorem PageContent.verdict_checked (h : Header) (d : Payload) (r : (PageImage.checked h d).inRange = true) :
    (PageContent.programmed (.checked h d)).verdict = .valid (.checked h d) := by
  rw [PageContent.verdict_programmed, PageImage.checked_agrees, r]
  simp

/-- The verdicts of an array with one page changed (R85). -/
theorem verdicts_setArray (g : PageNo) (c : PageContent) :
    (s.setArray g c).verdicts = s.verdicts.set g c.verdict := by
  unfold State.verdicts State.setArray
  exact Table.map_set _ _ _ _

end Sys2Proof.Machine
end

