-- ==== Sys2Proof/Laws/Links.lean ====
section
/-!
SUPPORT. The laws of the Frame Controller: what each link operation may change of its port, and that a link event
changes no other port and nothing store-wide.
-/

namespace Sys2Proof.Machine

variable (s : State) (c : PortState)

/-- `d` differs from `c` at most in the Frame Controller, the line record and the result holder. -/
def LinkOnly (c d : PortState) : Prop :=
  d = { c with controller := d.controller, line := d.line, holder := d.holder }

theorem LinkOnly.refl : LinkOnly c c := rfl

theorem LinkOnly.trans {a b d : PortState} (h : LinkOnly a b) (k : LinkOnly b d) : LinkOnly a d := by
  unfold LinkOnly at *
  rw [k, h]

theorem PortState.beginSlot_linkOnly (channel : Channel) (slot : Slot) : LinkOnly c (c.beginSlot channel slot) := rfl

theorem State.beginNext_linkOnly (channel : Channel) : LinkOnly c (s.beginNext channel c) := by
  unfold State.beginNext
  cases channel with
  | result => cases h : c.holder <;> rfl
  | notice => cases h : c.notices <;> rfl

theorem State.openResponse_linkOnly (channel : Channel) : LinkOnly c (s.openResponse channel c) := by
  unfold State.openResponse
  cases channel with
  | result => cases h : c.holder <;> rfl
  | notice =>
    exact LinkOnly.trans (b := { c with line := ⟨[true], []⟩ }) rfl
      (s.beginNext_linkOnly { c with line := ⟨[true], []⟩ } .notice)

theorem PortState.sendNext_linkOnly (f : ResponseFrame) : LinkOnly c (c.sendNext f) := rfl

theorem State.ackByte_linkOnly : LinkOnly c (s.ackByte c) := by
  unfold State.ackByte
  split
  · split
    · rfl
    · exact s.beginNext_linkOnly c .result
    all_goals first | rfl | (split <;> rfl)
  · rfl
  · rfl

theorem State.ackBytes_linkOnly (n : Nat) : LinkOnly c (s.ackBytes n c) := by
  induction n generalizing c with
  | zero => rfl
  | succ m ih => exact (s.ackByte_linkOnly c).trans (ih (s.ackByte c))

theorem State.goOn_linkOnly : LinkOnly c (s.goOn c) := by
  unfold State.goOn
  split
  · split
    · exact s.beginNext_linkOnly c _
    · rfl
  · rfl
  · rfl

theorem PortState.linkStart_linkOnly : LinkOnly c c.linkStart := by
  unfold PortState.linkStart
  split
  · split <;> rfl
  · rfl
  · rfl

theorem PortState.openFrame_linkOnly : LinkOnly c c.openFrame := by
  unfold PortState.openFrame
  split
  · split
    · rfl
    · exact c.linkStart_linkOnly
  · exact c.linkStart_linkOnly
  · exact c.linkStart_linkOnly

theorem State.leadByte_linkOnly (b : Byte) : LinkOnly c (s.leadByte b c) := by
  unfold State.leadByte
  split
  · rfl
  · split
    · rfl
    · exact s.openResponse_linkOnly c _

theorem State.linkByte_linkOnly (b : Byte) : LinkOnly c (s.linkByte c b) := by
  unfold State.linkByte
  split
  · split
    · exact s.leadByte_linkOnly c b
    · rfl
  · rfl
  · rfl

theorem PortState.linkStop_linkOnly : LinkOnly c c.linkStop := by
  unfold PortState.linkStop
  split
  · split <;> rfl
  · rfl
  · rfl

theorem PortState.timerRuns_linkOnly (ms : Nat) : LinkOnly c (c.timerRuns ms) := by
  unfold PortState.timerRuns
  split <;> rfl

theorem PortState.timeout_linkOnly : LinkOnly c c.timeout := by
  unfold PortState.timeout
  split
  · split
    · split <;> rfl
    · rfl
  · split <;> rfl
  · rfl

theorem State.respond_linkOnly (channel : Channel) (lead : Byte) (act : ResponseAct) :
    LinkOnly c (s.respond channel lead act c) := by
  unfold State.respond
  split
  · exact (c.openFrame_linkOnly.trans (s.leadByte_linkOnly _ lead)).trans (s.ackBytes_linkOnly _ _)
  · split
    · split
      · exact (s.goOn_linkOnly c).trans (s.ackBytes_linkOnly _ _)
      · rfl
    · rfl
    · rfl
  · split
    · split <;> rfl
    · rfl
    · rfl
  · split
    · split <;> rfl
    · rfl
    · rfl
  · split
    · split
      · exact c.linkStart_linkOnly
      · rfl
    · rfl
    · rfl

theorem State.afterDelivery_linkOnly (channel : Channel) (goesOn : Bool) :
    LinkOnly c (s.afterDelivery channel goesOn c) := by
  unfold State.afterDelivery
  cases goesOn with
  | true =>
    exact LinkOnly.trans (b := { c with controller := .response ⟨channel, .notTaken, 0, 0⟩ }) rfl (s.goOn_linkOnly _)
  | false => rfl

theorem State.deliverBlock_linkOnly (goesOn : Bool) : LinkOnly c (s.deliverBlock goesOn c) := by
  unfold State.deliverBlock
  split
  · split
    · split
      · exact LinkOnly.trans (b := { c with holder := _ }) rfl (s.afterDelivery_linkOnly _ .result goesOn)
      · rfl
    · split
      · exact s.afterDelivery_linkOnly c .result goesOn
      · rfl
    · rfl
  · rfl

/-- A delivery on the NOTICE channel removes the head of the queue or nothing, and is a link operation otherwise
(R134). -/
theorem State.deliverNotice_linkOnly (goesOn : Bool) :
    LinkOnly c (s.deliverNotice goesOn c) ∨ LinkOnly { c with notices := c.notices.drop 1 } (s.deliverNotice goesOn c) := by
  unfold State.deliverNotice
  split
  · split
    · split
      · exact .inr (s.afterDelivery_linkOnly _ .notice goesOn)
      · exact .inl rfl
    · split
      · exact .inl (s.afterDelivery_linkOnly c .notice goesOn)
      · exact .inl rfl
    · exact .inl rfl
  · exact .inl rfl

/-- `d` differs from `c` as after a link operation and some deliveries of notices (R134). -/
def LinkAndNotices (c d : PortState) : Prop := LinkOnly { c with notices := d.notices } d

theorem LinkOnly.andNotices {c d : PortState} (h : LinkOnly c d) : LinkAndNotices c d := by
  unfold LinkAndNotices LinkOnly at *
  rw [h]

theorem LinkAndNotices.trans {a b d : PortState} (h : LinkAndNotices a b) (k : LinkAndNotices b d) :
    LinkAndNotices a d := by
  unfold LinkAndNotices LinkOnly at *
  rw [k, h]

theorem State.hostAck_linkAndNotices : LinkAndNotices c (s.hostAck c) := by
  have byte : LinkAndNotices c (s.ackByte c) := (s.ackByte_linkOnly c).andNotices
  have block : LinkAndNotices c (s.deliverBlock true c) := (s.deliverBlock_linkOnly c true).andNotices
  have notice : LinkAndNotices c (s.deliverNotice true c) := by
    rcases s.deliverNotice_linkOnly c true with h | h
    · exact h.andNotices
    · exact LinkAndNotices.trans (b := { c with notices := c.notices.drop 1 }) rfl h.andNotices
  unfold State.hostAck
  split
  · split
    all_goals first | exact byte | rfl | (split <;> assumption)
  · rfl
  · rfl

theorem State.linkNinth_linkAndNotices (x : Byte × Option Bool) : LinkAndNotices c (s.linkNinth c x) := by
  unfold State.linkNinth
  split
  · exact (s.linkByte_linkOnly c x.1).andNotices
  · split
    · exact s.hostAck_linkAndNotices c
    · rfl
    · rfl
  · rfl

theorem State.linkBits_linkAndNotices (bits : List Bool) : LinkAndNotices c (s.linkBits bits c) := by
  unfold State.linkBits
  generalize ninths bits = l
  induction l generalizing c with
  | nil => rfl
  | cons x rest ih => exact (s.linkNinth_linkAndNotices c x).trans (ih (s.linkNinth c x))

theorem State.badFrameAt_linkAndNotices (bits : List Bool) : LinkAndNotices c (s.badFrameAt bits c) := by
  have h : LinkAndNotices c (s.linkBits bits c.openFrame) :=
    c.openFrame_linkOnly.andNotices.trans (s.linkBits_linkAndNotices _ bits)
  have stop := h.trans (PortState.linkStop_linkOnly _).andNotices
  unfold State.badFrameAt
  simp only
  split
  · split
    · rfl
    all_goals exact stop
  · exact stop
  · exact stop

theorem PortState.timeRunsOut_linkOnly : LinkOnly c c.timeRunsOut :=
  (c.timerRuns_linkOnly _).trans (PortState.timeout_linkOnly _)

theorem State.timeoutAt_linkAndNotices (wave : List LinkLevels) : LinkAndNotices c (s.timeoutAt wave c) := by
  unfold State.timeoutAt
  split
  · exact c.timeRunsOut_linkOnly.andNotices
  · split
    · exact (c.openFrame_linkOnly.andNotices.trans (s.linkBits_linkAndNotices _ _)).trans
        (PortState.timeRunsOut_linkOnly _).andNotices
    · rfl

/-- A link event at a port changes what the part holds for that port and nothing else. -/
theorem State.atLink_changes (p : Port) (f : State → PortState → PortState) :
    s.atLink p f = if s.inReset then s else { s with ports := s.ports.set p (f s (s.port p)) } := by
  unfold State.atLink
  split <;> rfl

/-- The bytes of a run are the complete bytes of the bits that a host sends for it (R142). -/
theorem completeBytes_bitsOfBytes (bytes : List Byte) : completeBytes (bitsOfBytes bytes) = bytes := by
  have one : ∀ b : Byte, byteOfBits (b.getLsbD 7) (b.getLsbD 6) (b.getLsbD 5) (b.getLsbD 4) (b.getLsbD 3)
      (b.getLsbD 2) (b.getLsbD 1) (b.getLsbD 0) = b := by
    decide +kernel
  induction bytes with
  | nil => rfl
  | cons b rest ih =>
    have : bitsOfBytes (b :: rest) = bitsOfByte b ++ bitsOfBytes rest := rfl
    rw [this]
    simp only [bitsOfByte, List.cons_append, List.nil_append, completeBytes, ninths, one, List.map_cons] at ih ⊢
    rw [ih]

end Sys2Proof.Machine
end

