-- ==== Sys2Proof/Tests/Slice0.lean ====
section
/-!
SUPPORT. The tests of the package: ill-formed commands that WellFormed refuses, frames written out from Table 39, one-step
tests from the spec's tables and worked sequences, and for every statement with hypotheses a concrete state that meets them.
-/

namespace Sys2Proof.Tests

open Sys2Proof.Machine

set_option Elab.async false

/-- The state after a command. -/
def after (c : Instr) (s : State) : State :=
  match exec c s with
  | .next t => t
  | .fault _ => s
  | .refused _ => s

/-- A READY store with every page CLEAN and nothing stored. -/
def ready : State := { State.reset with store := .ready, job := .idle, pages := .fill 320 .clean }

/-- Window 5 of Sequence 2: records 80 to 87, LEASED with lease time 30 ticks. -/
def window5 : WindowDef := ⟨80, 8, .leased 30⟩

/-- The layout record's page: page 319, the only page of sequence 7. -/
def header319 : Header := ⟨.layout, some 128, some 1, 7, 1, 1, false⟩

/-- A READY store with window 5 defined, as the layout record on page 319 holds it. -/
def windowed : State :=
  { ready with
    windows := (Table.fill 16 none).set 5 (some window5)
    records := ready.records.set 128 (.present 1 (.layout ((Table.fill 16 none).set 5 (some window5))) 319 7)
    pages := ready.pages.set 319 (.live header319)
    census := [⟨7, [⟨319, true⟩]⟩]
    nextSequence := 8 }

/-- The state with port `p` holding window 5, its timer at `ticks`, and the ports of a wait list. -/
def leased (p : Port) (ticks : Nat) (waiters : List Port) : State :=
  windowed.setLease 5 ⟨some ⟨p, ticks, false⟩, waiters⟩

/-- Record 50 of Sequence 1: PRESENT with version 9 and length 4 on page 77, the only page of sequence 300. -/
def header77 : Header := ⟨.data, some 50, some 9, 300, 1, 1, false⟩

/-- The state of Sequence 1 with its next sequence. -/
def stored : State :=
  { ready with
    records := ready.records.set 50 (.present 9 (.bytes [1, 2, 3, 4]) 77 300)
    pages := ready.pages.set 77 (.live header77)
    census := [⟨300, [⟨77, true⟩]⟩]
    nextSequence := 412 }

/-- A write of record 50 that expects version 9. -/
def entry50 : StagedEntry := ⟨50, .write [5, 6], some 9⟩

/-- Port P2 OPEN with that entry. -/
def opened : State := stored.onPort 2 fun c => { c with txn := .opened, staging := .records [entry50] }

/-- The same transaction QUEUED with token 1. -/
def queued : State :=
  { stored.onPort 2 fun c => { c with txn := .queued, staging := .records [entry50], tokenCounter := 1 } with
    queue := [⟨2, 1, .records [entry50]⟩] }

/-- The image that the commit programs. -/
def image50 : PageImage := .checked ⟨.data, some 50, some 10, 412, 1, 1, false⟩ (.bytes [5, 6])

/-- The commit RUNNING with its one program on page 0. -/
def running : State :=
  { stored.onPort 2 fun c => { c with txn := .running, staging := .records [entry50], tokenCounter := 1 } with
    job := .commit 2 1 (.records [entry50]) ⟨412, [image50], [], 0⟩
    op := some (.program 0 image50)
    pages := stored.pages.set 0 (.pending none)
    nextSequence := 413 }

/-- The image of a layout commit that clears window 5. -/
def imageClear : PageImage := .checked ⟨.layout, some 128, some 2, 8, 1, 1, false⟩ (.layout (.fill 16 none))

/-- A CLEAR of window 5 by port P1 at its one program, with port P3 the holder. -/
def clearing : State :=
  { (leased 3 4 [0]).onPort 1 fun c => { c with txn := .running, staging := .clear 5 } with
    job := .commit 1 9 (.clear 5) ⟨8, [imageClear], [], 0⟩
    op := some (.program 0 imageClear)
    pages := windowed.pages.set 0 (.pending none)
    nextSequence := 9 }

/-- Window 5 as a DEFINE leaves it: LEASED still, with lease time 20 ticks. -/
def layoutDefine : Layout := (Table.fill 16 none).set 5 (some ⟨80, 8, .leased 20⟩)

/-- The image of that layout commit. -/
def imageDefine : PageImage := .checked ⟨.layout, some 128, some 2, 8, 1, 1, false⟩ (.layout layoutDefine)

/-- A DEFINE of window 5 by port P1 at its one program. -/
def defining : State :=
  { (leased 3 4 [0]).onPort 1 fun c => { c with txn := .running, staging := .define 5 ⟨80, 8, .leased 20⟩ } with
    job := .commit 1 9 (.define 5 ⟨80, 8, .leased 20⟩) ⟨8, [imageDefine], [], 0⟩
    op := some (.program 0 imageDefine)
    pages := windowed.pages.set 0 (.pending none)
    nextSequence := 9 }

/-- A store in the second step of a format, erasing page 77. -/
def formatting : State :=
  { stored with store := .formatting, job := .format (.sweep 77 none) [], op := some (.erase 77) }

/-- An ERASE job on STALE page 3. -/
def erasing : State :=
  { ready with pages := ready.pages.set 3 .stale, job := .erase 3, op := some (.erase 3) }

/-- The page and the image, but for its check, of a program in progress. -/
def programming (s : State) : Option (PageNo × Header × Payload) :=
  match s.op with
  | some (.program g i) => some (g, i.header, i.payload)
  | some (.erase _) => none
  | none => none

/-- The levels of a host that sends these bytes and ends the frame so. -/
def sending (bytes : List Byte) (ending : FrameEnd) : List LinkLevels := frameLevels (bitsOfBytes bytes) ending

/-- The complete bytes and the end of the frame that levels spell at port P0. -/
def reading (s : State) (wave : List LinkLevels) : Option (List Byte × FrameEnd) :=
  (s.readFrame (s.port 0) wave).map fun x => (completeBytes x.1, x.2)

/-- A port's result holder. -/
def holder (p : Port) (s : State) : ResultHolder := (s.port p).holder

/-! ## Well-formedness -/

theorem test_wellFormed_refuses_long_data :
    WellFormed (.stageWrite 0 1 0 0 (List.replicate 256 0)) = false
      ∧ WellFormed (.stageWrite 0 1 0 0 (List.replicate 255 0)) = true := by decide +kernel

theorem test_wellFormed_refuses_good_frame :
    WellFormed (.badFrame 0 (sending (withCheck [0x01]) .stopped)) = false
      ∧ WellFormed (.badFrame 0 (sending [0x01, 0x6C] .stopped)) = true := by decide +kernel

theorem test_wellFormed_refuses_frame_without_request_lead :
    WellFormed (.badFrame 0 (sending [0x80] .stopped)) = false ∧ WellFormed (.badFrame 0 []) = false
      ∧ WellFormed (.truncated 0 (sending [0x81] .restarted)) = false := by decide +kernel

theorem test_wellFormed_refuses_other_end :
    WellFormed (.badFrame 0 (sending [0x01] .unended)) = false ∧ WellFormed (.truncated 0 (sending [0x01] .stopped)) = false
      ∧ WellFormed (.truncated 0 (sending [0x01] .restarted)) = true
      ∧ WellFormed (.frameTimeout 0 (sending [0x01] .stopped)) = false
      ∧ WellFormed (.frameTimeout 0 (sending [0x01] .unended)) = true := by decide +kernel

theorem test_wellFormed_refuses_good_lead_byte :
    WellFormed (.badLeadByte 0 0x80) = false ∧ WellFormed (.badLeadByte 0 0x81) = false
      ∧ WellFormed (.badLeadByte 0 0x7F) = false ∧ WellFormed (.badLeadByte 0 0x82) = true := by decide +kernel

/-! ## Frames -/

/-- The bytes of 10_frame_and_code_reference.md under Table 39: three data bytes to record 20 with expected version 5. -/
theorem test_stageWrite_frame :
    (argumentsOf (.stageWrite 0 20 1 5 [7, 8, 9])).map Prod.snd
        = some [0x11, 0x14, 0x01, 0x00, 0x05, 0x03, 0x07, 0x08, 0x09]
      ∧ requestOf 0 0x11 [0x14, 0x01, 0x00, 0x05, 0x03, 0x07, 0x08, 0x09] = some (.stageWrite 0 20 1 5 [7, 8, 9]) := by
  decide +kernel

/-- Table 39, one code of each family. -/
theorem test_request_codes :
    requestOf 1 0x02 [0x32] = some (.read 1 50) ∧ requestOf 1 0x14 [] = some (.commit 1)
      ∧ requestOf 1 0x20 [0x05, 0x01] = some (.lease 1 5 1) ∧ requestOf 1 0x28 [0x10] = some (.watch 1 16)
      ∧ requestOf 1 0x30 [0x05, 0x50, 0x08, 0x01, 0x1E] = some (.defineWindow 1 5 80 8 1 30)
      ∧ requestOf 1 0x3F [] = some (.portReset 1) ∧ requestOf 1 0x05 [] = none := by decide +kernel

/-- The check byte of the byte 0x01, stepped by hand by R175: 0xFF xor 0x01 is 0xFE, and its eight steps give 0xD3, 0x89,
0x3D, 0x7A, 0xF4, 0xC7, 0xA1, 0x6D. So STATUS is sent as 0x01, 0x6D. -/
theorem test_status_frame : frameOf (.status 2) = some (2, [0x01, 0x6D]) := by decide +kernel

/-- An eleventh byte of that STAGE_WRITE frame is not acknowledged (Table 39's note). -/
theorem test_eleventh_byte_not_acknowledged :
    ((RequestFrame.withLead 0x11).takeAll 0x11 [0x14, 1, 0, 5, 3, 7, 8, 9, 0, 0]).2
      = [true, true, true, true, true, true, true, true, true, false] := by decide +kernel

/-! ## One step of each command -/

/-- Table 43 by hand, on the state at release: MOUNTING, no reason, no flags, MOUNT, NONE, 0 staged, outcome NONE without
token and sequence, 320 pages STALE, next sequence 1, no queue. -/
theorem test_status :
    holder 0 (after (.status 0) State.reset)
      = .result .ok [0, 0xFF, 0, 1, 0, 0, 0, 0xFF, 0xFF, 0xFF, 0xFF, 0xFF, 0xFF, 0, 0, 0, 0, 0, 0, 0, 0, 1, 0x40, 0, 0, 0, 0, 0, 1, 0] := by
  decide +kernel

/-- Table 48, first row: version 9, length 4. -/
theorem test_read : holder 0 (after (.read 0 50) stored) = .result .ok [50, 1, 0, 9, 4, 1, 2, 3, 4] := by decide +kernel

/-- R13: an area scan of record 83 under window 5 has the window's 8 positions. -/
theorem test_scan :
    holder 1 (after (.scan 1 83 0 1) windowed)
      = .scan ⟨.area, .down, 83, [80, 81, 82, 83, 84, 85, 86, 87], 83, 8, none⟩ := by decide +kernel

/-- Table 41: version, sequence, one window with its five bytes. -/
theorem test_windows :
    holder 1 (after (.windows 1) windowed) = .result .ok [0, 1, 0, 0, 0, 7, 1, 5, 80, 8, 1, 30] := by decide +kernel

theorem test_begin : ((after (.beginTxn 2) stored).port 2).txn = .opened := by decide +kernel

/-- Table 48, second row. -/
theorem test_stageWrite :
    ((after (.stageWrite 2 50 1 9 [5, 6]) (after (.beginTxn 2) stored)).port 2).staging = .records [entry50]
      ∧ holder 2 (after (.stageWrite 2 50 1 9 [5, 6]) (after (.beginTxn 2) stored)) = .result .ok [1] := by
  decide +kernel

/-- R44: a later entry for the record takes the earlier one's place. -/
theorem test_stageDelete_replaces :
    ((after (.stageDelete 2 50 0 0) opened).port 2).staging = .records [⟨50, .delete, none⟩] := by decide +kernel

theorem test_drop_missing : holder 2 (after (.dropEntry 2 51) opened) = .result .notFound [] := by decide +kernel

/-- Table 48, third row: token 1, place 1. -/
theorem test_commit :
    holder 2 (after (.commit 2) opened) = .result .queued [1, 1]
      ∧ (after (.commit 2) opened).queue = [⟨2, 1, .records [entry50]⟩] := by decide +kernel

theorem test_abort_queued :
    (after (.abort 2) queued).queue = [] ∧ ((after (.abort 2) queued).port 2).lastOutcome
      = ⟨some 1, .failed .aborted, none⟩ := by decide +kernel

/-- Table 49, rows 1 and 3. -/
theorem test_lease :
    holder 3 (after (.lease 3 5 0) windowed) = .result .granted [30]
      ∧ holder 1 (after (.lease 1 5 1) (leased 3 30 [])) = .result .waiting [1] := by decide +kernel

theorem test_renew_by_other : holder 1 (after (.renew 1 5) (leased 3 30 [1])) = .result .notHolder [] := by decide +kernel

/-- Table 49: the release by P1 passes the lease on to P3 with 30 ticks. -/
theorem test_release :
    (after (.release 1 5) (leased 1 25 [3])).lease 5 = ⟨some ⟨3, 30, false⟩, []⟩
      ∧ ((after (.release 1 5) (leased 1 25 [3])).port 3).notices = [⟨.leaseGranted 5, false⟩] := by decide +kernel

theorem test_break_not_service : holder 0 (after (.breakLease 0 5) (leased 3 30 [])) = .result .notService [] := by
  decide +kernel

/-- R139 with R101: area 16 is the outer area. -/
theorem test_watch : holder 0 (after (.watch 0 16) (after (.watch 0 5) windowed)) = .result .ok [5, 16] := by decide +kernel

theorem test_unwatch_missing : holder 0 (after (.unwatch 0 16) windowed) = .result .notFound [] := by decide +kernel

theorem test_defineWindow :
    holder 0 (after (.defineWindow 0 2 8 8 2 0) ready) = .result .notService []
      ∧ holder 0 (after (.defineWindow 0 2 8 8 0 0) ready) = .result .queued [1, 1]
      ∧ holder 0 (after (.defineWindow 0 2 9 8 0 0) ready) = .result .badArg [] := by decide +kernel

theorem test_clearWindow : holder 0 (after (.clearWindow 0 4) windowed) = .result .noWindow [] := by decide +kernel

theorem test_format_not_service : holder 0 (after (.format 0) ready) = .result .notService [] := by decide +kernel

theorem test_portReset :
    (after (.portReset 1) (leased 1 25 [3, 0])).lease 5 = ⟨some ⟨3, 30, false⟩, [0]⟩ := by decide +kernel

/-- R146: the check byte of STATUS is 0x6D, so 0x6C is CHECK; a byte more is LENGTH; 0x05 names no request. -/
theorem test_badFrame :
    holder 0 (after (.badFrame 0 (sending [0x01, 0x6C] .stopped)) ready) = .result .badFrame [2]
      ∧ holder 0 (after (.badFrame 0 (sending [0x01, 0x6D, 0] .stopped)) ready) = .result .badFrame [1]
      ∧ holder 0 (after (.badFrame 0 (sending [0x05] .stopped)) ready) = .result .unknown [] := by decide +kernel

theorem test_truncated :
    holder 0 (after (.truncated 0 (sending [0x01] .restarted)) ready) = .result .badFrame [3]
      ∧ ((after (.truncated 0 (sending [0x01] .restarted)) ready).port 0).controller = .request .start := by
  decide +kernel

theorem test_frameTimeout :
    holder 0 (after (.frameTimeout 0 (sending [0x01] .unended)) ready) = .result .badFrame [3]
      ∧ ((after (.frameTimeout 0 []) (after (.truncated 0 (sending [0x01] .restarted)) ready)).port 0).controller = .idle := by
  decide +kernel

/-- R151 with R150: three bytes of NO_RESULT go out, the host acknowledges the first two and no more, and time runs out. -/
theorem test_frameTimeout_in_response :
    ((after (.frameTimeout 0 (frameLevels (bitsOfByte 0x80 ++ (List.replicate 8 true ++ [false]) ++ (List.replicate 8 true
      ++ [false])) .unended)) ready).port 0).line.sent = [0x05, 0x00, checkByte [0x80, 0x05, 0x00]] := by decide +kernel

/-- R141: the fall of LDAn while LCKn is high, its rise, and a rising edge of LCKn. -/
theorem test_line_events :
    linkEvent ⟨true, true⟩ ⟨true, false⟩ = .start ∧ linkEvent ⟨true, false⟩ ⟨true, true⟩ = .stop
      ∧ linkEvent ⟨false, false⟩ ⟨true, false⟩ = .bit false ∧ openDrain true false = false := by decide

theorem test_badLeadByte : ((after (.badLeadByte 0 0x82) ready).port 0).line = ⟨[false], []⟩ := by decide +kernel

/-- R150: NO_RESULT is 0x05 with length 0; the check byte covers 0x80, 0x05, 0x00; filler follows. -/
theorem test_resultFrame :
    ((after (.resultFrame 0 (.opens 3)) ready).port 0).line
      = ⟨[true], [0x05, 0x00, checkByte [0x80, 0x05, 0x00], 0xFF]⟩ := by decide +kernel

/-- R15, R16: the block of record 50 found 50 positions past record 0, then the cursor stands at 51 with 77 left. -/
theorem test_scanBlockDelivered :
    (match holder 0 (after (.scanBlockDelivered 0 false) (after (.resultFrame 0 (.opens 10)) (after (.scan 0 0 1 0) stored))) with
      | .scan c => (c.next, c.remaining)
      | .empty => (0, 0)
      | .result _ _ => (0, 0)) = (51, 77) := by decide +kernel

/-- Table 45 for LEASE_GRANTED of window 5. -/
theorem test_noticeFrame :
    (((after (.noticeFrame 0 (.opens 11)) (ready.notify 0 (.leaseGranted 5))).port 0).line.sent)
      = [4, 5, 0xFF, 0xFF, 0xFF, 0xFF, 0xFF, 0xFF, 0xFF, 0xFF, 0xFF, 0] := by decide +kernel

theorem test_noticeEntryDelivered :
    ((after (.noticeEntryDelivered 0 false) (after (.noticeFrame 0 (.opens 12)) (ready.notify 0 (.leaseGranted 5)))).port
      0).notices = [] := by decide +kernel

/-- Table 50 and R84: the supply fails during a program. -/
theorem test_deviceReset : (after (.deviceReset .damaged) running).array.get 0 = .damaged := by decide +kernel

/-- R84 and R21: a program cut off with another check in the image's place reads DAMAGED. -/
theorem test_deviceReset_disturbed :
    ((after (.deviceReset (.disturbed (image50.check + 1))) running).array.get 0).verdict = .damaged := by
  have differs : ∀ x : BitVec 16, x + 1 ≠ x := fun x h => by
    have := congrArg (· - x) h
    simp at this
  show PageContent.verdict (.programmed { image50 with check := image50.check + 1 }) = .damaged
  rw [PageContent.verdict_programmed, if_neg]
  rintro ⟨h, _⟩
  exact differs _ (eq_of_beq h)

/-- R163: SVCSEL1 is the high bit. -/
theorem test_resetRelease :
    ((after (.resetRelease true true false) (after (.deviceReset .blank) ready)).port 2).service = true
      ∧ ((after (.resetRelease true true false) (after (.deviceReset .blank) ready)).port 1).service = false := by
  decide +kernel

/-- An image of Sequence 3, its data left out. -/
def image3 (r : RecordNo) (v : Version) (q : Sequence) (k n : Nat) : PageImage :=
  .checked ⟨.data, some r, some v, q, k, n, false⟩ (.bytes [])

/-- The part with the array after the power loss of Sequence 3 (Table 51). -/
def sequence3 : State :=
  (((((State.reset.setArray 140 (.programmed (image3 30 2 70 1 1))).setArray 141 (.programmed (image3 31 5 71 1 2))).setArray
    142 (.programmed (image3 33 1 71 2 2))).setArray 220 (.programmed (image3 30 3 95 1 3))).setArray 221
    (.programmed (image3 31 6 95 2 3))).setArray 222 .damaged

/-- What the mount reads of it. -/
def verdicts3 : Table PageVerdict 320 :=
  ((((((Table.fill 320 PageVerdict.blank).set 140 (.valid (image3 30 2 70 1 1))).set 141 (.valid (image3 31 5 71 1 2))).set
    142 (.valid (image3 33 1 71 2 2))).set 220 (.valid (image3 30 3 95 1 3))).set 221 (.valid (image3 31 6 95 2 3))).set 222
    .damaged

theorem sequence3_verdicts : sequence3.verdicts = verdicts3 := by
  have blank : State.reset.verdicts = Table.fill 320 .blank := Table.map_fill _ _
  have valid : ∀ r v q k n, (image3 r v q k n).inRange = true →
      (PageContent.programmed (image3 r v q k n)).verdict = .valid (image3 r v q k n) :=
    fun _ _ _ _ _ h => PageContent.verdict_checked _ _ h
  unfold sequence3
  simp only [verdicts_setArray]
  rw [valid _ _ _ _ _ (by decide), valid _ _ _ _ _ (by decide), valid _ _ _ _ _ (by decide),
    valid _ _ _ _ _ (by decide), valid _ _ _ _ _ (by decide), blank]
  rfl

theorem sequence3_mounts : after .mountEnd sequence3 = sequence3.endMount verdicts3 := by
  rw [← sequence3_verdicts]
  rfl

/-- Table 51 and the text under it: record 31 keeps its version and the page of the incomplete group is STALE. -/
theorem test_mountEnd :
    ((after .mountEnd sequence3).record 31).version = 5 ∧ (after .mountEnd sequence3).page 220 = .stale := by
  rw [sequence3_mounts]
  decide +kernel

/-- The pointer and the next sequence under Table 51. -/
theorem test_mountEnd_pointer :
    (after .mountEnd sequence3).pointer = 222 ∧ (after .mountEnd sequence3).nextSequence = 96 := by
  rw [sequence3_mounts]
  decide +kernel

theorem test_holdTakesEffect :
    (after .holdTakesEffect (after .pfwAssert ready)).hold = true
      ∧ (after .holdTakesEffect (after .pfwAssert running)).hold = false := by decide +kernel

theorem test_pfwDeassert :
    programming (after .pfwDeassert { running with op := none, pages := stored.pages, pfw := true, hold := true })
      = some (0, image50.header, image50.payload) := by decide +kernel

/-- Table 49: tick 30 at timer 1. -/
theorem test_leaseTick :
    (after .leaseTick (leased 3 1 [1])).lease 5 = ⟨some ⟨1, 30, false⟩, []⟩
      ∧ (after .leaseTick (leased 3 30 [1])).lease 5 = ⟨some ⟨3, 29, false⟩, [1]⟩ := by decide +kernel

/-- R105: the windows that one tick brings to 0 expire in increasing order, whichever names the tick. -/
theorem test_leaseExpiry :
    ((after (.leaseExpiry 5) ((leased 3 1 []).setLease 2 ⟨some ⟨3, 1, false⟩, []⟩)).port 3).notices
        = [⟨.leaseExpired 2, false⟩, ⟨.leaseExpired 5, false⟩]
      ∧ after (.leaseExpiry 5) (leased 3 2 []) = leased 3 2 [] := by decide +kernel

/-- Table 48: the engine takes up P2's commit with sequence 412. -/
theorem test_jobChoice :
    programming (after (.jobChoice false) queued) = some (0, image50.header, image50.payload)
      ∧ ((after (.jobChoice false) queued).port 2).txn = .running
      ∧ (after (.jobChoice false) queued).nextSequence = 413 := by decide +kernel

/-- Table 48: the commit point; page 77 was the only page of sequence 300, so it is STALE and the entry is gone. -/
theorem test_pageProgramVerdict :
    (after (.pageProgramVerdict .pass) running).record 50 = .present 10 (.bytes [5, 6]) 0 412
      ∧ (after (.pageProgramVerdict .pass) running).page 77 = .stale
      ∧ (after (.pageProgramVerdict .pass) running).census = [⟨412, [⟨0, true⟩]⟩] := by decide +kernel

/-- R27: a failed program retires its page and counts it. -/
theorem test_pageProgramVerdict_fail :
    (after (.pageProgramVerdict (.fail .took)) running).page 0 = .bad
      ∧ (after (.pageProgramVerdict (.fail .took)) running).badCount = 1
      ∧ programming (after (.pageProgramVerdict (.fail .took)) running) = some (1, image50.header, image50.payload) := by
  decide +kernel

/-- R28 and R73: the page of an ERASE job is CLEAN, or retired and counted, and the job ends. -/
theorem test_pageEraseVerdict :
    (after (.pageEraseVerdict .erased) erasing).page 3 = .clean
      ∧ (after (.pageEraseVerdict .erased) erasing).job = .idle
      ∧ (after (.pageEraseVerdict (.failed .leftDamaged)) erasing).page 3 = .bad
      ∧ (after (.pageEraseVerdict (.failed .leftDamaged)) erasing).array.get 3 = .damaged
      ∧ (after (.pageEraseVerdict (.failed .leftDamaged)) erasing).badCount = 1 := by decide +kernel

theorem test_formatJobBegin :
    programming (after (.formatJobBegin false) { stored with store := .formatting })
      = some (0, ⟨.epoch, none, none, 412, 1, 1, false⟩, .none) := by decide +kernel

/-- R122: LEASE_REVOKED to the holder behind its LAYOUT_CHANGED, and the wait list emptied. -/
theorem test_clear_revokes :
    ((after (.pageProgramVerdict .pass) clearing).port 3).notices
        = [⟨.layoutChanged 5 .clear 1 8, false⟩, ⟨.leaseRevoked 5, false⟩]
      ∧ (after (.pageProgramVerdict .pass) clearing).lease 5 = ⟨none, []⟩ := by decide +kernel

/-! ## The hypotheses of the statements are met -/

/-- Frames: a well-formed request with its frame, and that frame judged good. -/
theorem witness_GoodFrameNamesRequest :
    WellFormed (.stageWrite 1 200 1 5 (List.replicate 255 7)) = true ∧ frameOf (.status 2) = some (2, [0x01, 0x6D])
      ∧ judgeBytes [0x01, 0x6D] = .good 0x01 [] := by decide +kernel

theorem witness_AcknowledgedBytes :
    codeLength 0x03 = .fixed 5 ∧ codeLength 0x11 = .byArgument ∧ codeLength 0x7F = .unknown := by decide +kernel

/-- Not in device reset, and argument bytes on both sides of every range: the hypotheses of the statements of STATUS, READ,
SCAN, WINDOWS, BEGIN, LEASE, RENEW, RELEASE, BREAK, WATCH, UNWATCH, DEFINE_WINDOW and CLEAR_WINDOW. -/
theorem witness_request_arguments :
    ready.inReset = false ∧ (127 < (128 : Byte).toNat ∧ ¬127 < (127 : Byte).toNat)
      ∧ (15 < (16 : Byte).toNat ∧ ¬15 < (15 : Byte).toNat) ∧ (16 < (17 : Byte).toNat ∧ ¬16 < (16 : Byte).toNat)
      ∧ byteOf (127 : HostRecord).val = 127 ∧ byteOf (15 : WindowNo).val = 15 ∧ byteOf (16 : AreaNo).val = 16 := by
  decide +kernel

theorem witness_ScanWalksRangeOnce :
    ([80, 83, 90] : List HostRecord).Pairwise (· < ·) ∧ (83 : HostRecord) ∈ ([80, 83, 90] : List HostRecord) := by
  decide +kernel

/-- A bad staging request and a good one, the record, the presence byte and the length at their bounds. -/
theorem witness_StagingBuildsList :
    opened.inReset = false ∧ ((opened.port 2).txn = .opened → (opened.port 2).staging = .records [entry50])
      ∧ (127 < (128 : Byte).toNat ∨ 1 < (0 : Byte).toNat ∨ 32 < ([] : List Byte).length)
      ∧ (127 < (127 : Byte).toNat ∨ 1 < (2 : Byte).toNat ∨ 32 < ([] : List Byte).length)
      ∧ (127 < (127 : Byte).toNat ∨ 1 < (1 : Byte).toNat ∨ 32 < (List.replicate 33 (0 : Byte)).length)
      ∧ (1 : Byte).toNat ≤ 1 ∧ (List.replicate 32 (0 : Byte)).length ≤ 32 := by decide +kernel

/-- An OPEN list with an entry, and an empty one. -/
theorem witness_DropRemovesEntry :
    opened.inReset = false ∧ ((opened.port 2).txn = .opened → (opened.port 2).staging = .records [entry50])
      ∧ (after (.beginTxn 2) stored).store = .ready ∧ ((after (.beginTxn 2) stored).port 2).txn = .opened
      ∧ ((after (.beginTxn 2) stored).port 2).staging = .records [] := by decide +kernel

theorem witness_CommitSubmits :
    opened.inReset = false ∧ (opened.port 2).txn = .opened ∧ (opened.port 2).staging = .records [entry50] := by
  decide +kernel

/-- A queued commit with its entry. -/
theorem witness_BeginAndAbort :
    queued.inReset = false ∧ (queued.port 2).txn = .queued ∧ ∃ e ∈ queued.queue, e.port = 2 := by decide +kernel

theorem witness_TickLowersTimers : (leased 3 1 [1]).inReset = false := by decide +kernel

theorem queued_idle : queued.job = .idle := rfl

/-- A queued commit in a store that fits the queue's invariant: FORMAT, PORT_RESET and what the steps keep. -/
theorem queued_consistent : queued.QueueConsistent := by
  refine ⟨by decide +kernel, by decide +kernel, by decide +kernel, by decide +kernel, ?_, ?_, by decide +kernel⟩
  · have h : ∀ p, (queued.port p).txn ≠ .running := by decide +kernel
    refine fun p => ⟨fun e => absurd e (h p), ?_⟩
    rintro ⟨_, _, _, e⟩
    cases queued_idle.symm.trans e
  · intro _ _ _ _ e
    cases queued_idle.symm.trans e

theorem witness_FormatAccepted :
    queued.inReset = false ∧ queued.QueueConsistent ∧ queued.store ≠ .mounting ∧ queued.store ≠ .formatting :=
  ⟨by decide +kernel, queued_consistent, by decide +kernel, by decide +kernel⟩

/-- The refusals of FORMAT: a store in MOUNTING and one in FORMATTING, each with an empty queue. -/
theorem witness_FormatAccepted_refused (store : StoreState) :
    ({ ready with store := store } : State).QueueConsistent ∧ ready.inReset = false := by
  have h : ∀ p, (State.port { ready with store := store } p).txn = .none := fun p => by
    simp [State.port, ready, State.reset, PortState.reset]
  have idle : ({ ready with store := store } : State).job = .idle := rfl
  refine ⟨⟨Nat.zero_le 4, List.nodup_nil, fun e he => absurd he List.not_mem_nil, ?_, ?_, ?_, fun _ => rfl⟩, rfl⟩
  · intro p e
    cases (h p).symm.trans e
  · refine fun p => ⟨fun e => ?_, ?_⟩
    · cases (h p).symm.trans e
    · rintro ⟨_, _, _, e⟩
      cases idle.symm.trans e
  · intro _ _ _ _ e
    cases idle.symm.trans e

theorem witness_PortResetClearsPort : queued.inReset = false ∧ queued.QueueConsistent :=
  ⟨by decide +kernel, queued_consistent⟩

/-- Levels of a frame with a request lead byte, stopped with a bad check, stopped good, and cut by a repeated start; and levels
that spell no such frame. -/
theorem witness_BadFramesAreAnswered :
    ready.inReset = false ∧ (0x01 : Byte).msb = false
      ∧ reading ready (sending [0x01, 0x6C] .stopped) = some ([0x01, 0x6C], .stopped)
      ∧ (ready.readFrame (ready.port 0) (sending [0x01, 0x6C] .stopped)).any (fun x => notGoodFrame x.1) = true
      ∧ (ready.readFrame (ready.port 0) (sending [0x01, 0x6D] .stopped)).any (fun x => notGoodFrame x.1) = false
      ∧ reading ready (sending [0x01, 0x6D] .stopped) = some ([0x01, 0x6D], .stopped)
      ∧ reading ready (sending [0x01] .restarted) = some ([0x01], .restarted)
      ∧ ready.readFrame (ready.port 0) [⟨true, true⟩] = none := by decide +kernel

/-- Levels that spell no open frame, an open frame short of a byte, and one with a lead byte of each kind; in a response the
host acknowledges one byte and not the next. -/
theorem witness_FramesAreCutShort :
    ready.inReset = false ∧ ready.readFrame (ready.port 0) [⟨true, true⟩] = none
      ∧ reading ready (frameLevels [true, false] .unended) = some ([], .unended)
      ∧ reading ready (sending [0x7F, 1] .unended) = some ([0x7F, 1], .unended)
      ∧ ((ready.readFrame (ready.port 0) (frameLevels (bitsOfByte 0x80 ++ (List.replicate 8 true ++ [false])
          ++ List.replicate 9 true) .unended)).map fun x => (ninths x.1).map Prod.snd)
        = some [some false, some false, some true]
      ∧ (reading ready (sending [0x81] .unended)).map Prod.fst = some [0x81]
      ∧ (reading ready (sending [0x82, 0] .unended)).map Prod.fst = some [0x82, 0] := by decide +kernel

/-- An IDLE port, a request's lead byte, and both lead bytes of a response. -/
theorem witness_LineLevelsAreRead :
    (ready.port 0).controller = .idle ∧ (0x01 : Byte).msb = false ∧ (0x80 : Byte).toNat = 128 ∧ (0x81 : Byte).toNat = 129
      ∧ 8 ≤ 8 := by decide +kernel

theorem witness_ResultFrameSends :
    ready.inReset = false ∧ (ready.port 0).endOpenFrame.holder = .empty
      ∧ ((after (.resultFrame 0 (.opens 1)) ready).port 0).controller
        = .response ⟨.result, .held (heldContent .empty), 1, 0⟩ := by decide +kernel

/-- A port's holder and controller as given. -/
def streaming (cursor : ScanCursor) (slot : Slot) (k : Nat) : State :=
  stored.onPort 0 fun c => { c with holder := .scan cursor, controller := .response ⟨.result, slot, k, 0⟩ }

/-- A cursor at record 49 with two positions left. -/
def cursor49 : ScanCursor := ⟨.all, .up, 49, hostRecords, 49, 2, none⟩

/-- The three blocks that may come next: record 50 one position past next, the end after the lap, and after a layout commit. -/
theorem witness_ScanStreamSends :
    (streaming cursor49 .scanStatus 0).inReset = false
      ∧ ((streaming cursor49 .scanStatus 0).port 0).holder = .scan cursor49
      ∧ ((streaming cursor49 .scanStatus 0).port 0).endOpenFrame.holder = .scan cursor49
      ∧ ((streaming cursor49 .scanStatus 0).port 0).controller = .response ⟨.result, .scanStatus, 0, 0⟩
      ∧ (scanLap cursor49.range cursor49.direction cursor49.next).take cursor49.remaining = [49] ++ 50 :: []
      ∧ stored.record (tableNo 49) = .unwritten ∧ stored.record (tableNo 50) ≠ .unwritten
      ∧ (scanLap hostRecords .up 0).take 0 = [] ∧ ({ cursor49 with endReason := some .layout } : ScanCursor).endReason ≠ none := by
  decide +kernel

/-- A record block, an end block and no block at the check byte. -/
theorem witness_ScanBlockMovesCursor :
    ((streaming cursor49 (.scanRecord 50 1 [1, 2, 3]) 2).port 0).holder = .scan cursor49
      ∧ ((streaming cursor49 (.scanRecord 50 1 [1, 2, 3]) 2).port 0).controller
        = .response ⟨.result, .scanRecord 50 1 [1, 2, 3], 2, 0⟩
      ∧ 2 + 1 = ([1, 2, 3] : List Byte).length ∧ 5 + 1 = (endBlock .lap).length
      ∧ ((streaming cursor49 (.scanEnd (endBlock .lap)) 5).port 0).controller
        = .response ⟨.result, .scanEnd (endBlock .lap), 5, 0⟩
      ∧ ((streaming cursor49 .scanStatus 0).port 0).controller = .response ⟨.result, .scanStatus, 0, 0⟩ := by
  decide +kernel

/-- A notice slot and an end entry at the check byte, and a slot not taken. -/
theorem witness_NoticeFrameSends :
    ready.inReset = false ∧ 12 + 1 = endEntrySlot.length
      ∧ ((after (.noticeFrame 0 (.opens 12)) ready).port 0).controller = .response ⟨.notice, .noticeEnd endEntrySlot, 12, 0⟩
      ∧ ((after (.noticeFrame 0 (.opens 12)) (ready.notify 0 (.leaseGranted 5))).port 0).controller
        = .response ⟨.notice, .notice (Notice.slot ⟨.leaseGranted 5, false⟩), 12, 0⟩
      ∧ ((after (.noticeEntryDelivered 0 false) (after (.noticeFrame 0 (.opens 12)) ready)).port 0).controller
        = .response ⟨.notice, .notTaken, 0, 0⟩ := by decide +kernel

/-- No frame open, a slot with bytes left to send, and one at its check byte; and a block at its check byte. -/
theorem witness_ResponseFrameActs :
    ready.inReset = false ∧ (ready.port 0).controller = .idle
      ∧ ((after (.noticeFrame 0 (.opens 0)) ready).port 0).controller = .response ⟨.notice, .noticeEnd endEntrySlot, 0, 0⟩
      ∧ 0 + 11 + 1 < endEntrySlot.length
      ∧ ((after (.noticeFrame 0 (.opens 12)) ready).port 0).controller = .response ⟨.notice, .noticeEnd endEntrySlot, 12, 0⟩
      ∧ 12 + 1 = endEntrySlot.length
      ∧ ((streaming cursor49 (.scanRecord 50 1 [1, 2, 3]) 2).port 0).controller
        = .response ⟨.result, .scanRecord 50 1 [1, 2, 3], 2, 0⟩ ∧ 2 + 1 = ([1, 2, 3] : List Byte).length := by
  decide +kernel

/-- Queues of 15 and of 16 entries. -/
theorem witness_NoticesAppend :
    (List.replicate 15 (⟨.leaseGranted 5, false⟩ : Notice)).length < 16
      ∧ 16 ≤ (List.replicate 15 (⟨.leaseGranted 5, false⟩ : Notice)).length + 1 := by decide +kernel

theorem witness_ResetLosesVolatile :
    ready.inReset = false ∧ (after (.deviceReset .blank) running).inReset = true
      ∧ running.op = some (.program 0 image50) ∧ formatting.op = some (.erase 77) ∧ (portOf (.status 0)).isSome = true :=
  ⟨rfl, rfl, rfl, rfl, rfl⟩

/-- The EPOCH image of a format that was cut off. -/
def imageEpoch : PageImage := .checked ⟨.epoch, none, none, 96, 1, 1, false⟩ .none

/-- A part after its release, one with a VALID page and a DAMAGED one, one with an EPOCH page beside other pages, and one
whose only page is an EPOCH page. -/
theorem witness_MountEnds :
    State.reset.inReset = false ∧ State.reset.job = .mount ∧ ¬(ready.inReset = false ∧ ready.job = .mount)
      ∧ sequence3.inReset = false ∧ sequence3.job = .mount
      ∧ ReadsValid sequence3.array 140 (image3 30 2 70 1 1) ∧ sequence3.array.get 222 = .damaged
      ∧ ReadsValid (sequence3.setArray 223 (.programmed imageEpoch)).array 223 imageEpoch
      ∧ (sequence3.setArray 223 (.programmed imageEpoch)).array.get 140 = .programmed (image3 30 2 70 1 1)
      ∧ ReadsValid (State.reset.setArray 223 (.programmed imageEpoch)).array 223 imageEpoch
      ∧ (State.reset.setArray 223 (.programmed imageEpoch)).array.get 0 = .blank :=
  ⟨rfl, rfl, by decide +kernel, rfl, rfl, ⟨rfl, rfl, by decide⟩, rfl, ⟨rfl, rfl, by decide⟩, rfl, ⟨rfl, rfl, by decide⟩, rfl⟩

/-- The array of Sequence 3 has VALID pages and no EPOCH page. -/
theorem witness_MountRestoresRecords :
    sequence3.inReset = false ∧ sequence3.job = .mount
      ∧ (∀ g i, ReadsValid sequence3.array g i → i.header.kind ≠ .epoch)
      ∧ ∃ t, exec .mountEnd sequence3 = .next t := by
  refine ⟨rfl, rfl, ?_, ⟨_, rfl⟩⟩
  have h : ∀ c ∈ sequence3.array.rows, (match c with
      | .programmed i => i.header.kind != .epoch
      | .blank => true
      | .retired => true
      | .damaged => true) = true := by decide +kernel
  rintro g i ⟨e, _⟩ hk
  have := h _ ((Table.mem_rows_iff _ _).mpr ⟨g, e⟩)
  simp [hk] at this

/-- The image of a relocation of record 50. -/
def moved50 : PageImage := .checked ⟨.data, some 50, some 9, 412, 1, 1, true⟩ (.bytes [1, 2, 3, 4])

/-- A relocation of sequence 300 at its one program, with page 77 LIVE, page 78 RETAINED, and every other page as given. -/
def relocating (others : PageEntry) (bad : Nat) : State :=
  { stored with
    pages := (((Table.fill 320 others).set 0 (.pending none)).set 77 (.live { header77 with count := 2 })).set 78
      (.retained ⟨.data, some 51, some 1, 300, 2, 2, false⟩)
    census := [⟨300, [⟨77, true⟩, ⟨78, false⟩]⟩]
    nextSequence := 413
    badCount := bad
    job := .relocate 300 ⟨412, [moved50], [], 0⟩
    op := some (.program 0 moved50) }

/-- A format in the given step, suspended. -/
def suspended (step : FormatStep) : State := { stored with store := .formatting, job := .format step [], pfw := true }

/-- Each job suspended, and a job with nothing to resume. -/
theorem witness_PowerFailHolds :
    ({ running with op := none, pfw := true } : State).op = none
      ∧ running.job = .commit 2 1 (.records [entry50]) ⟨412, [image50], [], 0⟩ ∧ running.op ≠ none
      ∧ (⟨412, [image50], [], 0⟩ : ImageRun).images[(⟨412, [image50], [], 0⟩ : ImageRun).verified.length]? = some image50
      ∧ ready.job = .idle ∧ State.reset.job = .mount
      ∧ (({ relocating .clean 0 with op := none, pfw := true } : State).op = none
        ∧ (relocating .clean 0).job = .relocate 300 ⟨412, [moved50], [], 0⟩)
      ∧ (({ erasing with op := none, pfw := true } : State).op = none ∧ erasing.job = .erase 3)
      ∧ (suspended (.epoch 412 0)).op = none ∧ (suspended (.epoch 412 0)).job = .format (.epoch 412 0) []
      ∧ (suspended (.sweep 77 (some 3))).job = .format (.sweep 77 (some 3)) []
      ∧ (suspended (.eraseEpoch 3)).job = .format (.eraseEpoch 3) [] :=
  ⟨rfl, rfl, (fun h => nomatch h), rfl, rfl, rfl, ⟨rfl, rfl⟩, ⟨rfl, rfl⟩, rfl, rfl, rfl, rfl⟩

theorem ready_lowestStale : ready.lowestStale = none :=
  (State.lowestStale_none_iff ready).mpr fun g => by simp [ready, State.page, PageEntry.isStale]

theorem ready_cleanCount : ready.cleanCount = 320 := by decide +kernel

theorem witness_AllocationSearches :
    (ready.page 0).isClean = true ∧ State.reset.findClean = none ∧ (State.reset.page 0).isStale = true := by
  refine ⟨by decide +kernel, (State.findClean_none_iff _).mpr fun g => ?_, by decide +kernel⟩
  simp [State.reset, State.page, PageEntry.isClean]

/-- A transaction of one LIVE page, and one of two. -/
theorem witness_PinRule :
    stored.census = [] ++ ⟨300, [⟨77, true⟩]⟩ :: [] ∧ (⟨77, true⟩ : CensusPage) ∈ [(⟨77, true⟩ : CensusPage)]
      ∧ stored.page 77 = .live header77
      ∧ (¬∃ x ∈ [(⟨77, true⟩ : CensusPage)], x.live = true ∧ x.page ≠ 77)
      ∧ ∃ x ∈ [(⟨77, true⟩ : CensusPage), ⟨78, true⟩], x.live = true ∧ x.page ≠ 77 := by decide +kernel

/-- A store with one CLEAN page and a transaction that may be relocated: page 77 LIVE, page 78 RETAINED. -/
def scarce : State :=
  { stored with
    pages := (((Table.fill 320 .bad).set 0 .clean).set 77 (.live { header77 with count := 2 })).set 78
      (.retained ⟨.data, some 51, some 1, 300, 2, 2, false⟩)
    badCount := 317
    census := [⟨300, [⟨77, true⟩, ⟨78, false⟩]⟩] }

theorem scarce_lowestStale : scarce.lowestStale = none :=
  (State.lowestStale_none_iff scarce).mpr fun g => by
    simp only [scarce, State.page, Table.get_set, Table.get_fill]
    split_ifs <;> rfl

/-- The choices with an empty queue: a STALE page, a transaction to relocate, nothing to do, and no choice. -/
theorem witness_EngineChoosesJob :
    (ready.FreeToChoose ∧ ready.queue = [] ∧ ready.lowestStale = none ∧ 24 ≤ ready.cleanCount)
      ∧ (erasing.page 3).isStale = true
      ∧ (scarce.FreeToChoose ∧ scarce.queue = [] ∧ scarce.lowestStale = none ∧ scarce.cleanCount < 24
        ∧ scarce.Relocatable ⟨300, [⟨77, true⟩, ⟨78, false⟩]⟩ ∧ scarce.census = [] ++ ⟨300, [⟨77, true⟩, ⟨78, false⟩]⟩ :: []
        ∧ (∀ x ∈ [(⟨77, true⟩ : CensusPage), ⟨78, false⟩], x.live = true → (scarce.page x.page).isLive = true)
        ∧ 1 ≤ (⟨300, [⟨77, true⟩, ⟨78, false⟩]⟩ : CensusEntry).live)
      ∧ ¬running.FreeToChoose := by
  unfold State.FreeToChoose State.Relocatable
  rw [ready_lowestStale, ready_cleanCount, scarce_lowestStale]
  decide +kernel

/-- The queue of a store with no page CLEAN. -/
def full : State := { queued with pages := .fill 320 .bad }

theorem full_lowestStale : full.lowestStale = none :=
  (State.lowestStale_none_iff full).mpr fun g => by simp [full, State.page, PageEntry.isStale]

/-- A valid head that fits, one that fails, and one that waits. -/
theorem witness_QueueHeadIsTakenUp :
    (queued.FreeToChoose ∧ queued.queue = ⟨2, 1, .records [entry50]⟩ :: []
        ∧ queued.validate ⟨2, 1, .records [entry50]⟩ = none ∧ (Staging.records [entry50]).count + 8 ≤ queued.cleanCount
        ∧ queued.nextSequence ≠ 0xFFFFFFFF)
      ∧ queued.validate ⟨2, 1, .records [⟨50, .delete, some 8⟩]⟩ = some (.conflict, some 50)
      ∧ (full.FreeToChoose ∧ full.cleanCount < (Staging.records [entry50]).count + 8 ∧ full.lowestStale = none
        ∧ ∀ x ∈ full.census, ¬full.Relocatable x) := by
  unfold State.FreeToChoose State.Relocatable
  rw [full_lowestStale]
  decide +kernel

/-- A run of two images at its first program, with retries left and with none; and no program in progress. -/
theorem witness_ProgramVerdictGoesOn :
    (∀ g i, ready.op ≠ some (.program g i)) ∧ running.op = some (.program 0 image50)
      ∧ ([image50, image50] : List PageImage)[([] : List PageNo).length + 1]? = some image50
      ∧ running.job = .commit 2 1 (.records [entry50]) ⟨412, [image50], [], 0⟩ ∧ 0 < 2 ∧ 2 ≤ 2 := by
  exact ⟨fun g i h => (nomatch h), rfl, rfl, rfl, by omega, by omega⟩

theorem witness_JobsGiveUp : (queued.queue.map QueueEntry.port).Nodup := by decide +kernel

/-! ## The Page Directory of the test states -/

/-- One pass over the pages: each with its number and entry. -/
def eachPage (s : State) (p : PageNo → PageEntry → Bool) : Bool := (allPages.zip s.pages.rows).all fun x => p x.1 x.2

theorem of_eachPage {s : State} {p : PageNo → PageEntry → Bool} (h : eachPage s p = true) (g : PageNo) :
    p g (s.page g) = true := s.pages.of_all_zip p h g

/-- The entry of a record is UNWRITTEN, or PRESENT with its page LIVE. -/
def entryChecked (s : State) (r : RecordNo) : RecordEntry → Bool
  | .unwritten => true
  | .present v _ g q => match s.page g with
    | .live h => h.record == some r && h.version == some v && h.sequence == q && h.kind != .epoch && h.kind != .tombstone
    | .clean | .pending _ | .retained _ | .stale | .bad => false
  | .deleted _ _ _ => false

/-- Records and LIVE pages agree, and no DELETED record is stored. -/
def recordsChecked (s : State) : Bool :=
  (((List.finRange 129).zip s.records.rows).all fun x => entryChecked s x.1 x.2)
    && eachPage s fun g e => match e with
      | .live h => match h.record with
        | some r => (s.record r).backing == some (g, h.sequence)
        | none => false
      | .clean | .pending _ | .retained _ | .stale | .bad => true

/-- The Census is exact. -/
def censusChecked (s : State) : Bool :=
  decide ((s.census.map CensusEntry.sequence).Pairwise fun x y => x.toNat < y.toNat)
    && s.census.all (fun e => decide (e.sequence.toNat < s.nextSequence.toNat) && decide (1 ≤ e.live)
      && decide (e.pages.length ≤ 8) && (List.range e.pages.length).all fun k => match e.pages[k]? with
        | none => true
        | some x =>
          let fits := fun (h : Header) => h.sequence == e.sequence && h.position == k + 1 && h.count == e.pages.length
          match s.page x.page with
          | .live h => x.live && fits h
          | .retained h => !x.live && fits h
          | .clean | .pending _ | .stale | .bad => false)
    && eachPage s fun g e => !(e.isLive || e.isRetained) || s.census.any fun c => c.pages.any fun x => x.page == g

theorem recordsBacked_of_checked {s : State} (h : recordsChecked s = true) : s.RecordsBacked := by
  simp only [recordsChecked, Bool.and_eq_true] at h
  refine ⟨fun r g q hb => ?_, fun g hd hl => ?_⟩
  · have hr : entryChecked s r (s.record r) = true := s.records.of_all_zip (entryChecked s) h.1 r
    cases e : s.record r with
    | unwritten => simp [e, RecordEntry.backing] at hb
    | deleted v g' q' => simp [e, entryChecked] at hr
    | present v d g' q' =>
      simp only [e, RecordEntry.backing, Option.some.injEq, Prod.mk.injEq] at hb
      obtain ⟨rfl, rfl⟩ := hb
      simp only [e, entryChecked] at hr
      cases el : s.page g' with
      | live hd =>
        simp only [el, Bool.and_eq_true, beq_iff_eq, bne_iff_ne] at hr
        obtain ⟨⟨⟨⟨h1, h2⟩, h3⟩, h4⟩, h5⟩ := hr
        exact ⟨hd, rfl, h1, by simpa [RecordEntry.version] using h2, h3, h4, by simp [h5]⟩
      | clean => simp [el] at hr
      | pending _ => simp [el] at hr
      | retained _ => simp [el] at hr
      | stale => simp [el] at hr
      | bad => simp [el] at hr
  · have hg := of_eachPage h.2 g
    simp only [hl] at hg
    cases e : hd.record with
    | none => simp [e] at hg
    | some r => exact ⟨r, rfl, by simpa [e] using hg⟩

theorem censusExact_of_checked {s : State} (h : censusChecked s = true) : s.CensusExact := by
  simp only [censusChecked, Bool.and_eq_true, List.all_eq_true, decide_eq_true_eq] at h
  refine ⟨h.1.1, fun e he => ?_, fun g hg => ?_⟩
  · obtain ⟨⟨⟨h1, h2⟩, h3⟩, h4⟩ := h.1.2 e he
    refine ⟨h1, h2, h3, fun k x hx => ?_⟩
    have hk := h4 k (List.mem_range.mpr (List.getElem?_eq_some_iff.mp hx).1)
    simp only [hx] at hk
    cases e' : s.page x.page with
    | live hd =>
      simp only [e', Bool.and_eq_true, beq_iff_eq] at hk
      exact ⟨hd, by simp [hk.1], hk.2.1.1, hk.2.1.2, hk.2.2⟩
    | retained hd =>
      simp only [e', Bool.and_eq_true, beq_iff_eq, Bool.not_eq_true'] at hk
      exact ⟨hd, by simp [hk.1], hk.2.1.1, hk.2.1.2, hk.2.2⟩
    | clean => simp [e'] at hk
    | pending _ => simp [e'] at hk
    | stale => simp [e'] at hk
    | bad => simp [e'] at hk
  · have := of_eachPage h.2 g
    simp only [Bool.or_eq_true, Bool.not_eq_true', Bool.or_eq_false_iff, List.any_eq_true, beq_iff_eq] at this
    rcases this with this | this
    · rcases hg with hg | hg <;> simp [this] at hg
    · exact this

theorem badCount_of_counted {s : State} (h : s.badCount = s.pages.count PageEntry.isBad) :
    s.badCount = (allPages.filter fun g => (s.page g).isBad).length :=
  h.trans (s.pages.count_eq_length_filter PageEntry.isBad).symm

/-- A job at the first program of a run of one image, on page 0. -/
theorem runFits_of_one {s : State} {i : PageImage} {q : Sequence} {relocated : Bool}
    (hq : q.toNat < s.nextSequence.toNat) (hc : ∀ e ∈ s.census, e.sequence.toNat < q.toNat)
    (hi : i.check = Config.pageCheck i.header i.payload) (hr : i.header.record.isSome = true)
    (hv : i.header.version.isSome = true)
    (hh : i.header.sequence = q ∧ i.header.position = 1 ∧ i.header.count = 1 ∧ i.header.relocated = relocated
      ∧ i.header.kind ≠ .epoch)
    (ho : s.op = some (.program 0 i)) (hp : eachPage s (fun g e => !e.isPending || g == 0) = true) (h0 : s.page 0 = .pending none) :
    s.RunFits ⟨q, [i], [], 0⟩ relocated := by
  refine ⟨hq, hc, by simp, by simp, fun k x hk => ?_, fun k g hk => by simp at hk,
    .inr ⟨0, i, ho, h0, rfl⟩, fun g hg => .inr ⟨i, ?_⟩⟩
  · match k, hk with
    | 0, hk =>
      cases hk
      exact ⟨hi, hr, hv, hh.1, hh.2.1, hh.2.2.1, hh.2.2.2.1, hh.2.2.2.2⟩
  · have := of_eachPage hp g
    rw [hg] at this
    rw [eq_of_beq (by simpa using this : (g == 0) = true)]
    exact ho

theorem running_consistent : running.DirectoryConsistent :=
  ⟨recordsBacked_of_checked (by decide +kernel), censusExact_of_checked (by decide +kernel), badCount_of_counted (by decide +kernel),
    runFits_of_one (by decide) (by decide) rfl rfl rfl (by decide) rfl (by decide +kernel) rfl⟩

/-- The same commit in a store with 33 pages BAD. -/
def runningOver : State :=
  { running with
    pages := Table.build 320 fun g =>
      if 287 ≤ g.val then .bad else if g = 0 then .pending none else if g = 77 then .live header77 else .clean
    badCount := 33 }

theorem runningOver_consistent : runningOver.DirectoryConsistent :=
  ⟨recordsBacked_of_checked (by decide +kernel), censusExact_of_checked (by decide +kernel), badCount_of_counted (by decide +kernel),
    runFits_of_one (by decide) (by decide) rfl rfl rfl (by decide) rfl (by decide +kernel) (by decide +kernel)⟩

theorem clearing_consistent : clearing.DirectoryConsistent :=
  ⟨recordsBacked_of_checked (by decide +kernel), censusExact_of_checked (by decide +kernel), badCount_of_counted (by decide +kernel),
    runFits_of_one (by decide) (by decide) rfl rfl rfl (by decide) rfl (by decide +kernel) (by decide +kernel)⟩

theorem defining_consistent : defining.DirectoryConsistent :=
  ⟨recordsBacked_of_checked (by decide +kernel), censusExact_of_checked (by decide +kernel), badCount_of_counted (by decide +kernel),
    runFits_of_one (by decide) (by decide) rfl rfl rfl (by decide) rfl (by decide +kernel) (by decide +kernel)⟩

theorem relocating_copies (others : PageEntry) (bad : Nat) :
    (relocating others bad).CopiesTarget 300 ⟨412, [moved50], [], 0⟩ := by
  refine ⟨⟨300, [⟨77, true⟩, ⟨78, false⟩]⟩, List.mem_singleton_self _, rfl, rfl, fun k x hk => ?_⟩
  match k, hk with
  | 0, hk =>
    cases hk
    exact ⟨{ header77 with count := 2 }, moved50, rfl, rfl, rfl⟩

theorem relocating_consistent : (relocating .clean 0).DirectoryConsistent :=
  ⟨recordsBacked_of_checked (by decide +kernel), censusExact_of_checked (by decide +kernel), badCount_of_counted (by decide +kernel),
    runFits_of_one (by decide) (by decide) rfl rfl rfl (by decide) rfl (by decide +kernel) (by decide +kernel),
    relocating_copies _ _⟩

theorem relocatingOver_consistent : (relocating .bad 317).DirectoryConsistent :=
  ⟨recordsBacked_of_checked (by decide +kernel), censusExact_of_checked (by decide +kernel), badCount_of_counted (by decide +kernel),
    runFits_of_one (by decide) (by decide) rfl rfl rfl (by decide) rfl (by decide +kernel) (by decide +kernel),
    relocating_copies _ _⟩

/-- The commit point of Sequence 1, in a store with no page BAD and in one that then enters READ_ONLY. -/
theorem witness_CommitPointOfRecords :
    running.op = some (.program 0 image50) ∧ running.job = .commit 2 1 (.records [entry50]) ⟨412, [image50], [], 0⟩
      ∧ [image50].length = ([] : List PageNo).length + 1 ∧ running.DirectoryConsistent
      ∧ (runningOver.op = some (.program 0 image50) ∧ runningOver.DirectoryConsistent ∧ runningOver.store = .ready
        ∧ 32 < runningOver.badCount)
      ∧ (after (.pageProgramVerdict .pass) runningOver).store = .readOnly .media :=
  ⟨rfl, rfl, rfl, running_consistent, ⟨rfl, runningOver_consistent, rfl, by decide⟩, by decide +kernel⟩

/-- A CLEAR, and a DEFINE that leaves its window LEASED. -/
theorem witness_CommitPointOfLayout :
    (clearing.op = some (.program 0 imageClear) ∧ clearing.job = .commit 1 9 (.clear 5) ⟨8, [imageClear], [], 0⟩
        ∧ imageClear.payload = .layout (.fill 16 none) ∧ clearing.DirectoryConsistent)
      ∧ (defining.op = some (.program 0 imageDefine)
        ∧ defining.job = .commit 1 9 (.define 5 ⟨80, 8, .leased 20⟩) ⟨8, [imageDefine], [], 0⟩
        ∧ imageDefine.payload = .layout layoutDefine ∧ defining.DirectoryConsistent)
      ∧ imageClear.header = ⟨.layout, some 128, some 2, 8, 1, 1, false⟩ ∧ imageDefine.header = imageClear.header
      ∧ (after (.pageProgramVerdict .pass) defining).lease 5 = ⟨some ⟨3, 4, false⟩, [0]⟩ :=
  ⟨⟨rfl, rfl, rfl, clearing_consistent⟩, ⟨rfl, rfl, rfl, defining_consistent⟩, rfl, rfl, by decide +kernel⟩

/-- A relocation in a store with no page BAD, and in one that then enters READ_ONLY. -/
theorem witness_RelocationKeepsRecords :
    ((relocating .clean 0).op = some (.program 0 moved50)
        ∧ (relocating .clean 0).job = .relocate 300 ⟨412, [moved50], [], 0⟩
        ∧ [moved50].length = ([] : List PageNo).length + 1 ∧ (relocating .clean 0).DirectoryConsistent
        ∧ (relocating .clean 0).record 50 ≠ .unwritten)
      ∧ (relocating .bad 317).op = some (.program 0 moved50)
      ∧ (relocating .bad 317).job = .relocate 300 ⟨412, [moved50], [], 0⟩ ∧ (relocating .bad 317).DirectoryConsistent :=
  ⟨⟨rfl, rfl, rfl, relocating_consistent, (fun h => nomatch h)⟩, rfl, rfl, relocatingOver_consistent⟩

theorem test_relocation_completes :
    (after (.pageProgramVerdict .pass) (relocating .clean 0)).page 77 = .stale
      ∧ (after (.pageProgramVerdict .pass) (relocating .clean 0)).page 78 = .stale
      ∧ (after (.pageProgramVerdict .pass) (relocating .clean 0)).census = [⟨412, [⟨0, true⟩]⟩]
      ∧ (after (.pageProgramVerdict .pass) (relocating .bad 317)).store = .readOnly .media := by decide +kernel

theorem witness_EraseVerdictSettles :
    (∀ g, ready.op ≠ some (.erase g)) ∧ formatting.op = some (.erase 77)
      ∧ formatting.job = .format (.sweep 77 none) [] ∧ (formatting.page 77).isLive = true
      ∧ erasing.op = some (.erase 3) ∧ erasing.job = .erase 3 := by
  refine ⟨fun g h => (nomatch h), ?_⟩
  decide +kernel

/-- A format that may begin, with and without a sequence left, and one at its EPOCH page. -/
theorem witness_FormatSteps :
    (({ stored with store := .formatting } : State).inReset = false
        ∧ ({ stored with store := .formatting } : State).job = .idle
        ∧ ({ stored with store := .formatting } : State).pfw = false)
      ∧ (after (.formatJobBegin false) { stored with store := .formatting }).job = .format (.epoch 412 0) []
      ∧ (after (.formatJobBegin false) { stored with store := .formatting, nextSequence := 0xFFFFFFFF }).job
        = .format (.sweep 0 none) []
      ∧ ¬(ready.store = .formatting) := by decide +kernel

theorem witness_FormatEnds :
    (([⟨77, true⟩, ⟨78, false⟩] : List NotedErase).map NotedErase.page).Nodup := by decide +kernel

/-- A step from a state with every invariant, and more than the reset state: a queued commit. -/
theorem witness_StepsKeep :
    ∃ t, step { queued with pending := [.leaseTick] } = .next t ∧ queued.StoreConsistent ∧ queued.QueueConsistent
      ∧ queued.HoldConsistent := by
  refine ⟨_, rfl, ⟨?_, ?_, ?_⟩, queued_consistent, ?_⟩
  · exact fun h => absurd h (by decide +kernel)
  · exact fun h => absurd h (by decide +kernel)
  · intro _ _ h
    cases queued_idle.symm.trans h
  · exact fun h => absurd h (by decide +kernel)

/-- A held window with a waiter is well shaped; the other bounds hold of a port with an entry staged. -/
theorem witness_StepsKeepBounds :
    (∀ w, ((leased 3 4 [0, 1]).lease w).WellShaped) ∧ ∃ t, step { leased 3 4 [0, 1] with pending := [.leaseTick] } = .next t := by
  refine ⟨fun w => ?_, ⟨_, rfl⟩⟩
  have h : ∀ w, (leased 3 4 [0, 1]).lease w = if w = 5 then ⟨some ⟨3, 4, false⟩, [0, 1]⟩ else ⟨none, []⟩ := by
    decide +kernel
  rw [h]
  unfold LeaseState.WellShaped
  split
  · next e =>
    split at e
    · cases e
    · rename_i hw
      simp [hw]
  · next x e =>
    split at e
    · rename_i hw
      cases e
      simp only [hw, if_true]
      decide +kernel
    · cases e

/-- Window 5 defined, with its layout record, and held. -/
theorem witness_StepsKeepLayout :
    (leased 3 4 []).LayoutConsistent ∧ (leased 3 4 []).LeasesFollowPolicy ∧ (leased 3 4 []).StoreConsistent := by
  refine ⟨⟨by decide +kernel, by decide +kernel, ?_, trivial⟩, ⟨?_, ?_⟩, ⟨?_, ?_, ?_⟩⟩
  · intro e he
    exact absurd he (List.not_mem_nil)
  · have h : ∀ w, ((leased 3 4 []).lease w).held.isSome = true →
        ((leased 3 4 []).windows.get w).map WindowDef.policy = some (.leased 30) := by decide +kernel
    exact fun w hw => ⟨30, h w hw⟩
  · exact fun h => absurd h (by decide +kernel)
  · exact fun h => absurd h (by decide +kernel)
  · exact fun h => absurd h (by decide +kernel)
  · have idle : (leased 3 4 []).job = .idle := rfl
    intro _ _ h
    cases idle.symm.trans h

/-- A step from a state with a commit at its program: the pages, the Census and the records fit. -/
theorem witness_StepsKeepDirectory :
    running.DirectoryConsistent ∧ running.StoreConsistent ∧ running.QueueConsistent ∧ running.StagingBounded
      ∧ ∃ t, step { running with pending := [.pageProgramVerdict .pass] } = .next t := by
  refine ⟨running_consistent, ⟨?_, ?_, ?_⟩, ⟨?_, ?_, ?_, ?_, ?_, ?_, ?_⟩, fun p => ?_, ⟨_, rfl⟩⟩
  · exact fun h => nomatch h
  · exact fun h => nomatch h
  · exact fun _ _ h => nomatch h
  · exact Nat.zero_le 4
  · exact List.nodup_nil
  · exact fun e he => absurd he List.not_mem_nil
  · have h : ∀ p, (running.port p).txn ≠ .queued := by decide +kernel
    exact fun p e => absurd e (h p)
  · have h : ∀ p, (running.port p).txn = .running ↔ p = 2 := by decide +kernel
    refine fun p => (h p).trans ⟨fun e => e ▸ ⟨_, _, _, rfl⟩, ?_⟩
    rintro ⟨_, _, _, e⟩
    cases e
    rfl
  · rintro p token st run e
    cases e
    rfl
  · rintro (e | e) <;> cases e
  · have h : ∀ p, (running.port p).staging = if p = 2 then .records [entry50] else .records [] := by decide +kernel
    rw [h p]
    unfold Staging.Bounded
    split_ifs
    · refine ⟨by decide, by decide, fun e he data hd => ?_⟩
      cases List.mem_singleton.mp he
      cases hd
      decide
    · exact ⟨by decide, List.nodup_nil, fun e he => absurd he List.not_mem_nil⟩

/-- Each way in which the store may change does change it; and a state that fits, in which a page becomes LIVE. -/
theorem witness_StoreChangesAtItsEvents :
    (after (.pageProgramVerdict .pass) running).record 50 ≠ running.record 50
      ∧ (after (.pageProgramVerdict .pass) running).array.get 0 ≠ running.array.get 0
      ∧ (after (.deviceReset .damaged) running).array.get 0 ≠ running.array.get 0
      ∧ (portOf (.read 0 50)).isSome
      ∧ (running.StoreConsistent ∧ running.DirectoryConsistent ∧ (∀ cut, Instr.pageProgramVerdict .pass ≠ .deviceReset cut)
        ∧ Instr.pageProgramVerdict .pass ≠ .mountEnd)
      ∧ (after (.pageProgramVerdict .pass) running).page 0 ≠ running.page 0 := by
  refine ⟨by decide +kernel, (fun h => nomatch h), (fun h => nomatch h), rfl,
    ⟨witness_StepsKeepDirectory.2.1, running_consistent, (fun _ h => nomatch h), (fun h => nomatch h)⟩, by decide +kernel⟩

/-- A command of another port, an area scan that a layout commit point ends, and a command that is no release. -/
theorem witness_PortsAreSeparate :
    portOf (.read 1 50) ≠ some 0 ∧ portOf (.pageProgramVerdict .pass) ≠ some 0
      ∧ (match holder 0 (after (.pageProgramVerdict .pass)
            (clearing.onPort 0 fun c => { c with holder := .scan { cursor49 with scope := .area } })) with
        | .scan c => c.endReason
        | .empty => none
        | .result _ _ => none) = some .layout := by decide +kernel

end Sys2Proof.Tests
end

section
namespace Sys2Proof.Machine

/-! ## The requests that report -/

theorem recordArg_of_large {b : Byte} (h : 127 < b.toNat) : recordArg b = none := by
  unfold recordArg
  rw [dif_neg (by omega)]

@[simp] theorem recordArg_byteOf (r : HostRecord) : recordArg (byteOf r.val) = some r := by
  have hr : (byteOf r.val).toNat = r.val := by
    have := r.isLt
    simp only [byteOf, BitVec.toNat_ofNat]
    omega
  simp [recordArg, hr]

/-- A request whose body leaves the state answers with the body's result and nothing else (R146, R149). -/
theorem serve_of_report {p : Port} {n : Nat} {body : State → State × ResultHolder} {s : State} {result : ResultHolder}
    (hr : s.inReset = false)
    (hb : body (s.onPort p (PortState.endGoodFrame n)) = (s.onPort p (PortState.endGoodFrame n), result)) :
    serve p n body s = .next (s.answered p n result) := by
  rw [serve_eq s p n body hr, hb]
  rfl

/-- A result behind the gate of Table 35 is what `ifServed` answers. -/
theorem answered_readGate (s : State) (p : Port) (n : Nat) (result : ResultHolder) :
    s.answered p n (match s.store.readGate with
      | some st => plain st
      | none => result) = s.ifServed p n (s.answered p n result) := by
  unfold State.ifServed
  cases s.store <;> rfl

/-- Settles O7: the checks of READ in the order of its body. -/
theorem readAnswers : Obligations.ReadAnswers := by
  intro p s hr
  refine ⟨fun b hb => ?_, fun r => ?_⟩
  · refine serve_of_report hr ?_
    simp only [readBody, recordArg_of_large hb]
    rfl
  · have served : ∀ bytes, s.recordBytes r = bytes →
        exec (.read p (byteOf r.val)) s = .next (s.ifServed p 3 (s.answered p 3 (.result .ok bytes))) := by
      rintro _ rfl
      rw [← answered_readGate]
      refine serve_of_report hr ?_
      simp only [readBody, recordArg_byteOf, State.onPort_store]
      cases s.store.readGate <;> rfl
    refine served _ ?_
    unfold State.recordBytes
    cases s.record (tableNo r) <;> rfl

theorem scopeArg_eq (b : Byte) :
    scopeArg b = if 1 < b.toNat then none else some (if b = 0x01 then .all else .area) := by
  unfold scopeArg
  have h0 : b = 0x00 ↔ b.toNat = 0 := by bv_omega
  have h1 : b = 0x01 ↔ b.toNat = 1 := by bv_omega
  simp only [h0, h1]
  grind

theorem directionArg_eq (b : Byte) :
    directionArg b = if 1 < b.toNat then none else some (if b = 0x01 then .down else .up) := by
  unfold directionArg
  have h0 : b = 0x00 ↔ b.toNat = 0 := by bv_omega
  have h1 : b = 0x01 ↔ b.toNat = 1 := by bv_omega
  simp only [h0, h1]
  grind

/-- The range of a scan as one filter over the records (R13). -/
theorem scanRange_eq_filter (l : Layout) (scope : Byte) (r : HostRecord) :
    scanRange l (if scope = 0x01 then .all else .area) r
      = hostRecords.filter fun q => scope == 0x01 || areaOf l q == areaOf l r := by
  by_cases h : scope = 0x01
  · rw [if_pos h]
    simp [h, scanRange]
  · rw [if_neg h]
    simp only [scanRange, beq_eq_false_iff_ne.mpr h, Bool.false_or]

/-- Settles O8: the checks of SCAN in the order of its body, then the new cursor. -/
theorem scanSetsCursor : Obligations.ScanSetsCursor := by
  intro p scope direction s hr
  refine ⟨fun b hb => ?_, fun r => ?_⟩
  · refine serve_of_report hr ?_
    simp only [scanBody, recordArg_of_large hb]
    rfl
  · by_cases bad : 1 < scope.toNat ∨ 1 < direction.toNat
    · rw [if_pos bad]
      refine serve_of_report hr ?_
      unfold scanBody
      rw [recordArg_byteOf, scopeArg_eq, directionArg_eq]
      rcases bad with h | h
      · rw [if_pos h]
        rfl
      · rw [if_pos h]
        cases (if 1 < scope.toNat then none else some (if scope = 0x01 then ScanScope.all else .area)) <;> rfl
    · obtain ⟨hs, hd⟩ := not_or.mp bad
      rw [if_neg bad]
      simp only [← scanRange_eq_filter]
      rw [← answered_readGate]
      refine serve_of_report hr ?_
      unfold scanBody
      rw [recordArg_byteOf, scopeArg_eq, directionArg_eq, if_neg hs, if_neg hd]
      simp only [State.onPort_store]
      cases s.store.readGate <;> rfl

end Sys2Proof.Machine
end

section
namespace Sys2Proof.Machine

/-! ## The lap of a scan -/

/-- A range in increasing order, cut at a record of it: what stands before lies below, what stands behind above. -/
structure RangeCut (range before after : List HostRecord) (r : HostRecord) : Prop where
  cut : range = before ++ r :: after
  below : ∀ q ∈ before, q < r
  above : ∀ q ∈ after, r < q
  before_sorted : before.Pairwise (· < ·)
  after_sorted : after.Pairwise (· < ·)

theorem exists_rangeCut {range : List HostRecord} {r : HostRecord} (hs : range.Pairwise (· < ·)) (hr : r ∈ range) :
    ∃ before after, RangeCut range before after r := by
  obtain ⟨before, after, rfl⟩ := List.append_of_mem hr
  obtain ⟨hb, ha, hba⟩ := List.pairwise_append.mp hs
  obtain ⟨habove, ha⟩ := List.pairwise_cons.mp ha
  exact ⟨before, after, rfl, fun q hq => hba q hq r List.mem_cons_self, habove, hb, ha⟩

section
variable {range before after : List HostRecord} {r : HostRecord}

theorem RangeCut.mem_iff (c : RangeCut range before after r) (q : HostRecord) :
    q ∈ range ↔ q ∈ before ∨ q = r ∨ q ∈ after := by
  rw [c.cut, List.mem_append, List.mem_cons]

/-- Going UP a lap takes what is above the record, then what is below it (R14). -/
theorem RangeCut.scanLap_up (c : RangeCut range before after r) : scanLap range .up r = r :: (after ++ before) := by
  obtain ⟨rfl, below, above, -, -⟩ := c
  have hb : before.filter (fun q => decide (r ≤ q)) = [] := by simpa using below
  have ha : after.filter (fun q => decide (r ≤ q)) = after := by simpa using fun q hq => (above q hq).le
  have hb' : before.filter (fun q => decide (q < r)) = before := by simpa using below
  have ha' : after.filter (fun q => decide (q < r)) = [] := by simpa using fun q hq => (above q hq).le
  simp [scanLap, ha, hb, ha', hb']

/-- Going DOWN a lap takes what is below the record, then what is above it, each downward (R14). -/
theorem RangeCut.scanLap_down (c : RangeCut range before after r) :
    scanLap range .down r = r :: (before.reverse ++ after.reverse) := by
  obtain ⟨rfl, below, above, -, -⟩ := c
  have hb : before.filter (fun q => decide (q ≤ r)) = before := by simpa using fun q hq => (below q hq).le
  have ha : after.filter (fun q => decide (q ≤ r)) = [] := by simpa using above
  have hb' : before.filter (fun q => decide (r < q)) = [] := by simpa using fun q hq => (below q hq).le
  have ha' : after.filter (fun q => decide (r < q)) = after := by simpa using above
  simp [scanLap, ha, hb, ha', hb']

theorem RangeCut.scanLap_perm (c : RangeCut range before after r) (direction : ScanDirection) :
    (scanLap range direction r).Perm range ∧ (scanLap range direction r).head? = some r := by
  cases direction with
  | up =>
    rw [c.scanLap_up, c.cut]
    exact ⟨(List.perm_middle.trans (List.perm_append_comm.cons r)).symm, rfl⟩
  | down =>
    rw [c.scanLap_down, c.cut]
    exact ⟨((before.reverse_perm.append after.reverse_perm).cons r).trans List.perm_middle.symm, rfl⟩

/-- Going UP the next record is the lowest above, or the lowest of the range when none is above (R14). -/
theorem RangeCut.scanAfter_up (c : RangeCut range before after r) :
    scanAfter range .up r ∈ range
      ∧ (∀ q ∈ range, r < q → r < scanAfter range .up r ∧ scanAfter range .up r ≤ q)
      ∧ ((¬∃ q ∈ range, r < q) → ∀ q ∈ range, scanAfter range .up r ≤ q) := by
  have hs := c.after_sorted
  have hb := c.before_sorted
  have below := c.below
  have above := c.above
  simp only [scanAfter, c.scanLap_up, c.mem_iff, List.drop_one, List.tail_cons]
  cases after with
  | cons x rest =>
    have hx := List.pairwise_cons.mp hs
    simp only [List.cons_append, List.headD_cons]
    grind
  | nil =>
    cases before with
    | nil => simp
    | cons y rest =>
      have hy := List.pairwise_cons.mp hb
      simp only [List.nil_append, List.headD_cons]
      grind

/-- Going DOWN the next record is the highest below, or the highest of the range when none is below (R14). -/
theorem RangeCut.scanAfter_down (c : RangeCut range before after r) :
    scanAfter range .down r ∈ range
      ∧ (∀ q ∈ range, q < r → scanAfter range .down r < r ∧ q ≤ scanAfter range .down r)
      ∧ ((¬∃ q ∈ range, q < r) → ∀ q ∈ range, q ≤ scanAfter range .down r) := by
  have hs := c.after_sorted
  have hb := c.before_sorted
  have below := c.below
  have above := c.above
  simp only [scanAfter, c.scanLap_down, c.mem_iff, List.drop_one, List.tail_cons]
  rcases List.eq_nil_or_concat' before with rfl | ⟨rest, x, rfl⟩
  · rcases List.eq_nil_or_concat' after with rfl | ⟨rest, y, rfl⟩
    · simp
    · have hy := (List.pairwise_append.mp hs).2.2
      simp only [List.reverse_append, List.reverse_cons, List.reverse_nil, List.nil_append, List.cons_append, List.headD_cons]
      grind
  · have hx := (List.pairwise_append.mp hb).2.2
    simp only [List.reverse_append, List.reverse_cons, List.reverse_nil, List.nil_append, List.cons_append, List.headD_cons]
    grind

end

/-- Settles O9: the range is cut at the record. -/
theorem scanWalksRangeOnce : Obligations.ScanWalksRangeOnce := by
  intro range r hs hr
  obtain ⟨before, after, c⟩ := exists_rangeCut hs hr
  obtain ⟨memUp, nextAbove, lowest⟩ := c.scanAfter_up
  obtain ⟨memDown, nextBelow, highest⟩ := c.scanAfter_down
  refine ⟨c.scanLap_perm, memUp, memDown, ?_, ?_⟩
  · rw [ite_prop_iff_and]
    refine ⟨?_, lowest⟩
    rintro ⟨x, hx, hxr⟩
    exact ⟨(nextAbove x hx hxr).1, fun q hq hqr => (nextAbove q hq hqr).2⟩
  · rw [ite_prop_iff_and]
    refine ⟨?_, highest⟩
    rintro ⟨x, hx, hxr⟩
    exact ⟨(nextBelow x hx hxr).1, fun q hq hqr => (nextBelow q hq hqr).2⟩

end Sys2Proof.Machine
end

section
namespace Sys2Proof.Machine

/-! ## One port at a time -/

theorem State.port_eq_get (s : State) (p : Port) : s.ports.get p = s.port p := rfl

theorem State.onPort_congr {s : State} {p : Port} {f g : PortState → PortState} (h : f (s.port p) = g (s.port p)) :
    s.onPort p f = s.onPort p g := by
  simp only [State.onPort, State.port_eq_get, h]

theorem State.onPort_unchanged {s : State} {p : Port} {f : PortState → PortState} (h : f (s.port p) = s.port p) :
    s.onPort p f = s := by
  simp only [State.onPort, State.port_eq_get, h]
  simp only [State.port, Table.set_get_self]

theorem State.onPort_onPort (s : State) (p : Port) (f g : PortState → PortState) :
    (s.onPort p f).onPort p g = s.onPort p fun c => g (f c) := by
  simp only [State.onPort, Table.get_set, if_true, Table.set_set]

/-! ## What a response frame sends rests on the records and the port alone -/

section
variable (s : State) (p : Port) (f : PortState → PortState)

@[simp] theorem State.firstWritten_onPort (j : Nat) (l : List HostRecord) :
    (s.onPort p f).firstWritten j l = s.firstWritten j l := by
  induction l generalizing j with
  | nil => rfl
  | cons r rest ih =>
    simp only [State.firstWritten, ih]
    rfl

@[simp] theorem State.takeBlock_onPort (cursor : ScanCursor) : (s.onPort p f).takeBlock cursor = s.takeBlock cursor := by
  simp only [State.takeBlock, State.searchBlock, State.firstWritten_onPort]
  rfl

@[simp] theorem State.beginNext_onPort (channel : Channel) (c : PortState) :
    (s.onPort p f).beginNext channel c = s.beginNext channel c := by
  simp only [State.beginNext, State.takeBlock_onPort]

@[simp] theorem State.goOn_onPort (c : PortState) : (s.onPort p f).goOn c = s.goOn c := by
  simp only [State.goOn, State.beginNext_onPort]

@[simp] theorem State.ackByte_onPort (c : PortState) : (s.onPort p f).ackByte c = s.ackByte c := by
  simp only [State.ackByte, State.beginNext_onPort]

@[simp] theorem State.ackBytes_onPort (n : Nat) (c : PortState) : (s.onPort p f).ackBytes n c = s.ackBytes n c := by
  induction n generalizing c with
  | zero => rfl
  | succ m ih => simp only [State.ackBytes, State.ackByte_onPort, ih]

end

/-! ## The commands of response frames out of device reset -/

section
variable {s : State} (hr : s.inReset = false) (p : Port)
include hr

theorem exec_resultFrame (a : ResponseAct) :
    exec (.resultFrame p a) s = .next (s.onPort p (s.respond .result 0x80 a)) := by
  simp only [exec, execResultFrame, State.atLink, hr]
  rfl

theorem exec_noticeFrame (a : ResponseAct) :
    exec (.noticeFrame p a) s = .next (s.onPort p (s.respond .notice 0x81 a)) := by
  simp only [exec, execNoticeFrame, State.atLink, hr]
  rfl

theorem exec_scanBlockDelivered (goesOn : Bool) :
    exec (.scanBlockDelivered p goesOn) s = .next (s.onPort p (s.deliverBlock goesOn)) := by
  simp only [exec, execScanBlockDelivered, State.atLink, hr]
  rfl

theorem exec_noticeEntryDelivered (goesOn : Bool) :
    exec (.noticeEntryDelivered p goesOn) s = .next (s.onPort p (s.deliverNotice goesOn)) := by
  simp only [exec, execNoticeEntryDelivered, State.atLink, hr]
  rfl

/-- In an open RESULT frame the host goes on: the next slot is begun if it is to be, then bytes are acknowledged. -/
theorem exec_result_goesOn {f : ResponseFrame} (hc : (s.port p).controller = .response f) (hch : f.channel = .result)
    (n : Nat) : exec (.resultFrame p (.goesOn n)) s = .next (s.onPort p fun c => s.ackBytes n (s.goOn c)) := by
  rw [exec_resultFrame hr]
  refine congrArg _ (State.onPort_congr ?_)
  simp only [State.respond, hc, hch, if_true]

end

/-! ## Slots taken and not taken -/

section
variable (s : State)

theorem State.takeBlock_taken (cursor : ScanCursor) : (s.takeBlock cursor).1 ≠ .notTaken := by
  unfold State.takeBlock
  split
  · exact nofun
  · split <;> exact nofun

theorem State.goOn_of_taken {c : PortState} {f : ResponseFrame} (hc : c.controller = .response f)
    (hs : f.slot ≠ .notTaken) : s.goOn c = c := by
  simp only [State.goOn, hc, if_neg hs]

theorem State.goOn_of_notTaken {c : PortState} {channel : Channel} {k timer : Nat}
    (hc : c.controller = .response ⟨channel, .notTaken, k, timer⟩) : s.goOn c = s.beginNext channel c := by
  simp only [State.goOn, hc, if_true]

/-- The next block of a scan begins (R15, R152). -/
theorem State.beginNext_of_scan {c : PortState} {cursor : ScanCursor} (hh : c.holder = .scan cursor) :
    s.beginNext .result c
      = ({ c with holder := .scan (s.takeBlock cursor).2 }).beginSlot .result (s.takeBlock cursor).1 := by
  simp only [State.beginNext, hh]

/-- On a holder that is no scan no block begins. -/
theorem State.beginNext_of_no_scan {c : PortState} (hh : ∀ cursor, c.holder ≠ .scan cursor) :
    s.beginNext .result c = c := by
  unfold State.beginNext
  cases h : c.holder with
  | empty => rfl
  | result _ _ => rfl
  | scan cursor => exact absurd h (hh cursor)

/-- A RESULT frame is open, and its slot is taken if the holder has one to take. -/
def PortState.SendsResult (c : PortState) : Prop :=
  ∃ f, c.controller = .response f ∧ f.channel = .result
    ∧ (f.slot = .notTaken → ∀ cursor, c.holder ≠ .scan cursor)

theorem PortState.SendsResult.goOn_eq {c : PortState} (h : c.SendsResult) : s.goOn c = c := by
  obtain ⟨f, hc, hch, hs⟩ := h
  by_cases taken : f.slot = .notTaken
  · simp only [State.goOn, hc, taken, hch, if_true]
    exact s.beginNext_of_no_scan (hs taken)
  · exact s.goOn_of_taken hc taken

theorem PortState.beginSlot_sendsResult (c : PortState) {slot : Slot} (hs : slot ≠ .notTaken) :
    (c.beginSlot .result slot).SendsResult := ⟨_, rfl, rfl, fun h => absurd h hs⟩

/-- The next block begins in an open RESULT frame, or there is none to take. -/
theorem State.beginNext_sendsResult {c : PortState} {f : ResponseFrame} (hc : c.controller = .response f)
    (hch : f.channel = .result) : (s.beginNext .result c).SendsResult := by
  by_cases scans : ∃ cursor, c.holder = .scan cursor
  · obtain ⟨cursor, hh⟩ := scans
    rw [s.beginNext_of_scan hh]
    exact PortState.beginSlot_sendsResult _ (s.takeBlock_taken cursor)
  · rw [s.beginNext_of_no_scan (not_exists.mp scans)]
    exact ⟨f, hc, hch, fun _ => not_exists.mp scans⟩

theorem State.goOn_sendsResult {c : PortState} {f : ResponseFrame} (hc : c.controller = .response f)
    (hch : f.channel = .result) : (s.goOn c).SendsResult := by
  by_cases taken : f.slot = .notTaken
  · simp only [State.goOn, hc, taken, hch, if_true]
    exact s.beginNext_sendsResult hc hch
  · rw [s.goOn_of_taken hc taken]
    exact ⟨f, hc, hch, fun h => absurd h taken⟩

theorem State.ackByte_sendsResult {c : PortState} (h : c.SendsResult) : (s.ackByte c).SendsResult := by
  obtain ⟨f, hc, hch, hs⟩ := id h
  have next : f.slot ≠ .notTaken → (c.sendNext f).SendsResult := fun taken =>
    ⟨_, rfl, hch, fun e => absurd e taken⟩
  have within (content : List Byte) (taken : f.slot ≠ .notTaken) :
      (if f.position + 1 < content.length then c.sendNext f else c).SendsResult := by
    split
    · exact next taken
    · exact h
  simp only [State.ackByte, hc]
  cases slot : f.slot with
  | held _ => exact next (by simp [slot])
  | scanStatus => exact s.beginNext_sendsResult hc hch
  | scanRecord _ _ content => exact within content (by simp [slot])
  | scanEnd content => exact within content (by simp [slot])
  | notice content => exact within content (by simp [slot])
  | noticeEnd content => exact within content (by simp [slot])
  | notTaken => exact h

theorem State.ackBytes_sendsResult (n : Nat) {c : PortState} (h : c.SendsResult) : (s.ackBytes n c).SendsResult := by
  induction n generalizing c with
  | zero => exact h
  | succ m ih => exact ih (s.ackByte_sendsResult h)

theorem State.ackBytes_add (m n : Nat) (c : PortState) : s.ackBytes (m + n) c = s.ackBytes n (s.ackBytes m c) := by
  induction m generalizing c with
  | zero => rw [Nat.zero_add]; rfl
  | succ m ih =>
    rw [Nat.succ_add]
    exact ih (s.ackByte c)

end

/-! ## The opening of a RESULT frame -/

/-- The lead byte 0x80 opens a response on the RESULT channel (R144). -/
theorem State.leadByte_result (s : State) (c : PortState) : s.leadByte 0x80 c = s.openResponse .result c := rfl

theorem State.openResponse_sendsResult (s : State) (c : PortState) : (s.openResponse .result c).SendsResult := by
  unfold State.openResponse
  cases h : c.holder <;> exact PortState.beginSlot_sendsResult _ nofun

/-- A port whose holder is a scan once the open frame has ended had it before, and no request frame was cut off. -/
theorem PortState.endOpenFrame_of_scan {c : PortState} {cursor : ScanCursor} (h : c.endOpenFrame.holder = .scan cursor) :
    c.endOpenFrame = { c with controller := .idle } ∧ c.holder = .scan cursor
      ∧ ∃ k, c.openFrame = { c with controller := k } := by
  unfold PortState.endOpenFrame at *
  unfold PortState.openFrame PortState.linkStart
  cases hc : c.controller with
  | idle => exact ⟨rfl, by simpa [hc] using h, _, rfl⟩
  | response f => exact ⟨rfl, by simpa [hc] using h, _, rfl⟩
  | request f =>
    cases hl : f.lead with
    | none => exact ⟨by simp [hl], by simpa [hc, hl] using h, .request f, by simp [hl, ← hc]⟩
    | some _ => simp [hc, hl] at h

/-! ## The blocks of a scan stream -/

section
variable (s : State)

theorem State.firstWritten_none {j : Nat} {l : List HostRecord} (h : ∀ r ∈ l, s.record (tableNo r) = .unwritten) :
    s.firstWritten j l = none := by
  induction l generalizing j with
  | nil => rfl
  | cons x rest ih =>
    rw [State.firstWritten, if_pos (h x List.mem_cons_self)]
    exact ih fun r hr => h r (List.mem_cons_of_mem _ hr)

theorem State.firstWritten_append {j : Nat} {before after : List HostRecord} {r : HostRecord}
    (h : ∀ x ∈ before, s.record (tableNo x) = .unwritten) (hr : s.record (tableNo r) ≠ .unwritten) :
    s.firstWritten j (before ++ r :: after) = some (r, j + before.length) := by
  induction before generalizing j with
  | nil => simp [State.firstWritten, hr]
  | cons x rest ih =>
    rw [List.cons_append, State.firstWritten, if_pos (h x List.mem_cons_self),
      ih fun r hr => h r (List.mem_cons_of_mem _ hr)]
    simp only [List.length_cons, Option.some.injEq, Prod.mk.injEq, true_and]
    omega

/-- With the end reason set the end block comes next (R16, R17). -/
theorem State.takeBlock_of_ended {cursor : ScanCursor} {e : ScanEnd} (h : cursor.endReason = some e) :
    s.takeBlock cursor = (.scanEnd (endBlock e), cursor) := by
  simp only [State.takeBlock, h]

/-- With no record left the end block comes next, with LAP (R16). -/
theorem State.takeBlock_of_lap {cursor : ScanCursor} (h : cursor.endReason = none)
    (hl : ∀ r ∈ (scanLap cursor.range cursor.direction cursor.next).take cursor.remaining,
      s.record (tableNo r) = .unwritten) :
    s.takeBlock cursor = (.scanEnd (endBlock .lap), { cursor with endReason := some .lap }) := by
  simp only [State.takeBlock, h, State.searchBlock, s.firstWritten_none hl]

/-- Else the first record that is not UNWRITTEN comes next (R15). -/
theorem State.takeBlock_of_record {cursor : ScanCursor} {before after : List HostRecord} {r : HostRecord}
    (h : cursor.endReason = none)
    (hl : (scanLap cursor.range cursor.direction cursor.next).take cursor.remaining = before ++ r :: after)
    (hb : ∀ x ∈ before, s.record (tableNo x) = .unwritten) (hr : s.record (tableNo r) ≠ .unwritten) :
    s.takeBlock cursor = (.scanRecord r before.length (withCheck (s.recordBytes r)), cursor) := by
  simp only [State.takeBlock, h, State.searchBlock, hl, s.firstWritten_append hb hr, Nat.zero_add]

end

/-- The next block of a stream begins: after the status byte is acknowledged, or at once where the slot is not taken. -/
theorem exec_goesOn_begins {s : State} (hr : s.inReset = false) {p : Port} {cursor : ScanCursor} {slot : Slot}
    {n k timer : Nat} (hh : (s.port p).holder = .scan cursor)
    (hc : (s.port p).controller = .response ⟨.result, slot, k, timer⟩)
    (hn : slot = .scanStatus ∧ n = 1 ∨ slot = .notTaken ∧ n = 0) :
    exec (.resultFrame p (.goesOn n)) s
      = .next (s.onPort p fun c =>
          ({ c with holder := .scan (s.takeBlock cursor).2 }).beginSlot .result (s.takeBlock cursor).1) := by
  rw [exec_result_goesOn hr p hc rfl]
  refine congrArg _ (State.onPort_congr ?_)
  rw [← s.beginNext_of_scan hh]
  rcases hn with ⟨rfl, rfl⟩ | ⟨rfl, rfl⟩
  · rw [s.goOn_of_taken hc nofun]
    simp only [State.ackBytes, State.ackByte, hc]
  · exact s.goOn_of_notTaken hc

/-- Settles O30: the acts compose because acknowledging never unmakes a slot; each next block is what `takeBlock` gives. -/
theorem scanStreamSends : Obligations.ScanStreamSends := by
  intro p cursor s hr
  refine ⟨fun n t ht => ?_, fun m n t ht => ?_, fun hd => ?_, fun slot n k timer hh hc hn => ?_⟩
  · rw [exec_resultFrame hr] at ht
    cases ht
    have sends : ((s.onPort p (s.respond .result 0x80 (.opens 0))).port p).SendsResult := by
      rw [State.port_onPort, if_pos rfl]
      exact s.openResponse_sendsResult _
    obtain ⟨f, hf, hch, -⟩ := id sends
    rw [exec_resultFrame hr, exec_result_goesOn (s := s.onPort p _) hr p hf hch, State.onPort_onPort]
    refine congrArg _ (State.onPort_congr ?_)
    rw [State.port_onPort, if_pos rfl] at sends
    rw [State.ackBytes_onPort, State.goOn_onPort, sends.goOn_eq]
    rfl
  · by_cases opened : ∃ f, (s.port p).controller = .response f ∧ f.channel = .result
    · obtain ⟨f, hf, hch⟩ := opened
      rw [exec_result_goesOn hr p hf hch] at ht
      cases ht
      have sends : ((s.onPort p fun c => s.ackBytes m (s.goOn c)).port p).SendsResult := by
        rw [State.port_onPort, if_pos rfl]
        exact s.ackBytes_sendsResult m (s.goOn_sendsResult hf hch)
      obtain ⟨g, hg, hgch, -⟩ := id sends
      rw [exec_result_goesOn hr p hf hch, exec_result_goesOn (s := s.onPort p _) hr p hg hgch, State.onPort_onPort]
      refine congrArg _ (State.onPort_congr ?_)
      rw [State.port_onPort, if_pos rfl] at sends
      rw [State.ackBytes_onPort, State.goOn_onPort, sends.goOn_eq, s.ackBytes_add]
    · have unheeded (j : Nat) : exec (.resultFrame p (.goesOn j)) s = .next s := by
        rw [exec_resultFrame hr]
        refine congrArg _ (State.onPort_unchanged ?_)
        simp only [State.respond]
        cases hc : (s.port p).controller with
        | idle => rfl
        | request _ => rfl
        | response f => exact if_neg fun hch => opened ⟨f, hc, hch⟩
      rw [unheeded] at ht
      cases ht
      rw [unheeded, unheeded]
  · obtain ⟨he, hh, k, hk⟩ := PortState.endOpenFrame_of_scan hd
    rw [exec_resultFrame hr]
    refine congrArg _ (State.onPort_congr ?_)
    simp only [State.respond, State.ackBytes, State.leadByte_result, hk, he, State.openResponse, hh]
    rfl
  · refine ⟨fun e he => ?_, fun he hl => ?_, fun before r after he hl hb hw => ?_⟩
    · rw [exec_goesOn_begins hr hh hc hn, s.takeBlock_of_ended he]
      rfl
    · rw [exec_goesOn_begins hr hh hc hn, s.takeBlock_of_lap he hl]
      rfl
    · rw [exec_goesOn_begins hr hh hc hn, s.takeBlock_of_record he hl hb hw]
      rfl

/-! ## Deliveries of scan blocks -/

/-- The check byte of a block is acknowledged: the frame goes on with the slot not taken (R15). -/
theorem exec_goesOn_of_notTaken {s : State} (hr : s.inReset = false) {p : Port} {d : PortState → PortState}
    (hd : (d (s.port p)).controller = .response ⟨.result, .notTaken, 0, 0⟩) :
    exec (.resultFrame p (.goesOn 0)) (s.onPort p d) = .next (s.onPort p fun c => s.goOn (d c)) := by
  have hc : ((s.onPort p d).port p).controller = .response ⟨.result, .notTaken, 0, 0⟩ := by
    rw [State.port_onPort, if_pos rfl, hd]
  rw [exec_result_goesOn (s := s.onPort p d) hr p hc rfl, State.onPort_onPort]
  simp only [State.ackBytes, State.goOn_onPort]

/-- A delivery that leaves a port with its slot not taken is the same act whether the host goes on in it or after it. -/
theorem exec_scanBlockDelivered_becomes {s : State} (hr : s.inReset = false) {p : Port} {d : PortState}
    (hd : ∀ goesOn, s.deliverBlock goesOn (s.port p) = s.afterDelivery .result goesOn d) :
    let t := s.onPort p fun _ => { d with controller := .response ⟨.result, .notTaken, 0, 0⟩ }
    exec (.scanBlockDelivered p false) s = .next t
      ∧ exec (.scanBlockDelivered p true) s = exec (.resultFrame p (.goesOn 0)) t := by
  refine ⟨?_, ?_⟩
  · rw [exec_scanBlockDelivered hr]
    exact congrArg _ (State.onPort_congr (hd false))
  · rw [exec_scanBlockDelivered hr, exec_goesOn_of_notTaken hr rfl]
    exact congrArg _ (State.onPort_congr (hd true))

/-- Settles O31: a delivery at the check byte moves the cursor or leaves it, any other is no event. -/
theorem scanBlockMovesCursor : Obligations.ScanBlockMovesCursor := by
  intro p cursor channel slot k timer s hr hh hc
  refine ⟨?_, ?_, fun notRecord notEnd goesOn => ?_⟩
  · rintro r steps content rfl hk
    have := exec_scanBlockDelivered_becomes hr (p := p)
      (d := { s.port p with holder := .scan (cursor.delivered r steps) }) fun goesOn => by
        simp only [State.deliverBlock, hc, hh, ResponseFrame.atCheck, hk, beq_self_eq_true, if_true]
    rwa [State.onPort_congr (g := fun c =>
      { c with holder := .scan (cursor.delivered r steps), controller := .response ⟨.result, .notTaken, 0, 0⟩ }) rfl] at this
  · rintro content rfl hk
    have := exec_scanBlockDelivered_becomes hr (p := p) (d := s.port p) fun goesOn => by
      simp only [State.deliverBlock, hc, hh, ResponseFrame.atCheck, hk, beq_self_eq_true, if_true]
    rwa [State.onPort_congr (g := fun c =>
      { c with holder := .scan cursor, controller := .response ⟨.result, .notTaken, 0, 0⟩ }) (by rw [← hh])] at this
  · rw [exec_scanBlockDelivered hr]
    refine congrArg _ (State.onPort_unchanged ?_)
    simp only [State.deliverBlock, hc, hh]
    cases slot with
    | scanRecord r steps content =>
      exact if_neg (by simpa [ResponseFrame.atCheck] using notRecord r steps content rfl)
    | scanEnd content =>
      exact if_neg (by simpa [ResponseFrame.atCheck] using notEnd content rfl)
    | held _ => rfl
    | scanStatus => rfl
    | notice _ => rfl
    | noticeEnd _ => rfl
    | notTaken => rfl

/-! ## Acts in a response frame -/

/-- The command by which a host acts in a response frame of a channel. -/
def actOn (p : Port) : Channel → ResponseAct → Instr
  | .result, a => .resultFrame p a
  | .notice, a => .noticeFrame p a

/-- The lead byte of a channel (R144). -/
def leadOf : Channel → Byte
  | .result => 0x80
  | .notice => 0x81

theorem exec_actOn {s : State} (hr : s.inReset = false) (p : Port) (channel : Channel) (a : ResponseAct) :
    exec (actOn p channel a) s = .next (s.onPort p (s.respond channel (leadOf channel) a)) := by
  cases channel
  · exact exec_resultFrame hr p a
  · exact exec_noticeFrame hr p a

/-- A slot whose bytes end with a check byte (R152, R153). -/
def Slot.Carries (slot : Slot) (content : List Byte) : Prop :=
  (∃ r j, slot = .scanRecord r j content) ∨ slot = .scanEnd content ∨ slot = .notice content ∨ slot = .noticeEnd content

theorem Slot.Carries.taken {slot : Slot} {content : List Byte} (h : slot.Carries content) : slot ≠ .notTaken := by
  rcases h with ⟨_, _, rfl⟩ | rfl | rfl | rfl <;> exact nofun

theorem Slot.Carries.byteAt {slot : Slot} {content : List Byte} (h : slot.Carries content) (k : Nat) :
    slot.byteAt k = content.getD k 0xFF := by
  rcases h with ⟨_, _, rfl⟩ | rfl | rfl | rfl <;> rfl

section
variable (s : State) {c : PortState} {channel : Channel} {slot : Slot} {content : List Byte} {k timer : Nat}

/-- An acknowledge before the check byte sends the next byte (R151). -/
theorem State.ackByte_within (hs : slot.Carries content) (hc : c.controller = .response ⟨channel, slot, k, timer⟩)
    (hk : k + 1 < content.length) : s.ackByte c = c.sendNext ⟨channel, slot, k, timer⟩ := by
  rcases hs with ⟨_, _, rfl⟩ | rfl | rfl | rfl <;> simp only [State.ackByte, hc, hk, if_true]

/-- Acknowledges before the check byte send the next bytes in turn (R151). -/
theorem State.ackBytes_within (n : Nat) (hs : slot.Carries content)
    (hc : c.controller = .response ⟨channel, slot, k, timer⟩) (hk : k + n + 1 < content.length) :
    s.ackBytes (n + 1) c
      = { c with
          controller := .response ⟨channel, slot, k + n + 1, 0⟩
          line := { c.line with sent := c.line.sent ++ (content.drop (k + 1)).take (n + 1) } } := by
  have hlt : k + 1 < content.length := by omega
  have step : s.ackBytes (n + 1) c = s.ackBytes n (c.sendNext ⟨channel, slot, k, timer⟩) := by
    rw [← s.ackByte_within hs hc hlt]
    rfl
  have next : slot.byteAt (k + 1) = content[k + 1] := by
    rw [hs.byteAt, List.getD_eq_getElem _ _ hlt]
  rw [step, List.drop_eq_getElem_cons hlt, ← next]
  induction n generalizing c k timer with
  | zero => rfl
  | succ m ih =>
    have hlt2 : k + 1 + 1 < content.length := by omega
    have next2 : slot.byteAt (k + 1 + 1) = content[k + 1 + 1] := by
      rw [hs.byteAt, List.getD_eq_getElem _ _ hlt2]
    have step2 : s.ackBytes (m + 1) (c.sendNext ⟨channel, slot, k, timer⟩)
        = s.ackBytes m ((c.sendNext ⟨channel, slot, k, timer⟩).sendNext ⟨channel, slot, k + 1, 0⟩) := by
      rw [← s.ackByte_within hs rfl hlt2]
      rfl
    rw [step2, ih (c := c.sendNext ⟨channel, slot, k, timer⟩) (k := k + 1) (timer := 0) rfl (by omega) hlt2 step2 next2,
      List.drop_eq_getElem_cons hlt2, ← next2]
    simp only [PortState.sendNext, List.append_assoc, List.singleton_append, List.take_succ_cons]
    congr 3
    omega

/-- Short of the check byte of a block or slot, the host's acknowledge is one byte acknowledged (R151). -/
theorem State.hostAck_eq_ackByte (hc : c.controller = .response ⟨channel, slot, k, timer⟩) (taken : slot ≠ .notTaken)
    (hs : ∀ content, slot.Carries content → k + 1 ≠ content.length) : s.hostAck c = s.ackByte c := by
  have short (content : List Byte) (h : slot.Carries content) :
      ¬(⟨channel, slot, k, timer⟩ : ResponseFrame).atCheck content = true := by
    simpa [ResponseFrame.atCheck] using hs content h
  simp only [State.hostAck, hc]
  cases slot with
  | scanRecord r j content => exact if_neg (short content (.inl ⟨r, j, rfl⟩))
  | scanEnd content => exact if_neg (short content (.inr (.inl rfl)))
  | notice content => exact if_neg (short content (.inr (.inr (.inl rfl))))
  | noticeEnd content => exact if_neg (short content (.inr (.inr (.inr rfl))))
  | held _ => rfl
  | scanStatus => rfl
  | notTaken => exact absurd rfl taken

end

/-- Settles O33: each act by the branch of `respond` that it takes. -/
theorem responseFrameActs : Obligations.ResponseFrameActs := by
  intro p channel s hr act
  have acts (a : ResponseAct) : act a = .next (s.onPort p (s.respond channel (leadOf channel) a)) := by
    rw [← exec_actOn hr]
    cases channel <;> rfl
  refine ⟨fun hc a ha => ?_, fun slot k timer hc => ⟨?_, ?_, ?_, fun content n hs hk => ?_, ?_, ?_, fun taken hr' hs => ?_⟩⟩
  · rw [acts]
    refine congrArg _ (State.onPort_unchanged ?_)
    have closed (f : ResponseFrame) (h : (s.port p).controller = .response f) : f.channel ≠ channel := by
      rintro rfl
      exact hc _ _ _ h
    cases a with
    | opens n => exact absurd rfl (ha n)
    | goesOn n => cases h : (s.port p).controller <;> simp [State.respond, h, closed]
    | notAck => cases h : (s.port p).controller <;> simp [State.respond, h, closed]
    | stop => cases h : (s.port p).controller <;> simp [State.respond, h, closed]
    | repeatedStart => cases h : (s.port p).controller <;> simp [State.respond, h, closed]
  · rw [acts]
    exact congrArg _ (State.onPort_congr (by simp only [State.respond, hc, if_true]))
  · rw [acts]
    exact congrArg _ (State.onPort_congr (by simp only [State.respond, hc, if_true]))
  · rw [acts]
    refine congrArg _ (State.onPort_congr ?_)
    simp only [State.respond, hc, if_true, PortState.linkStart]
    rfl
  · rw [acts]
    refine congrArg _ (State.onPort_congr ?_)
    simp only [State.respond, hc, if_true, s.goOn_of_taken hc (Slot.Carries.taken hs)]
    exact s.ackBytes_within n hs hc hk
  · intro h
    rw [exec_scanBlockDelivered hr]
    refine congrArg _ (State.onPort_congr ?_)
    rcases h with ⟨r, j, content, rfl, h⟩ | ⟨content, rfl, h⟩ <;>
      simp only [State.hostAck, hc, ResponseFrame.atCheck, h, beq_self_eq_true, if_true]
  · rintro ⟨content, rfl | rfl, h⟩ <;> rw [exec_noticeEntryDelivered hr] <;>
      refine congrArg _ (State.onPort_congr ?_) <;>
      simp only [State.hostAck, hc, ResponseFrame.atCheck, h, beq_self_eq_true, if_true]
  · rw [acts]
    refine congrArg _ (State.onPort_congr ?_)
    simp only [State.respond, hc, if_true, s.goOn_of_taken hc taken]
    refine (s.hostAck_eq_ackByte hc taken ?_).symm
    rintro content (⟨r, j, h⟩ | h)
    · exact hr' r j content h
    · exact hs content h

end Sys2Proof.Machine
end

section
/-!
SUPPORT. What the commands that are no steps of the engine leave: every field of the store but the ports, the leases, the
Commit Queue, the store state and the pins.
-/

namespace Sys2Proof.Machine

/-- Records, windows, pages, Census, array and operation stand in `t` as in `s`. -/
structure SameStore (s t : State) : Prop where
  records : t.records = s.records
  windows : t.windows = s.windows
  pages : t.pages = s.pages
  pointer : t.pointer = s.pointer
  badCount : t.badCount = s.badCount
  nextSequence : t.nextSequence = s.nextSequence
  census : t.census = s.census
  array : t.array = s.array
  recovered : t.recovered = s.recovered
  op : t.op = s.op

/-- A queued DEFINE carries a definition in range (R101, R118). -/
def QueueEntry.InRange (e : QueueEntry) : Prop := ∀ w d, e.staging = .define w d → d.inRange = true

/-- The store and the engine's job stand in `t` as in `s`; whatever joins the queue carries a definition in range. -/
structure StoreKept (s t : State) : Prop extends SameStore s t where
  job : t.job = s.job
  queue : ∀ e ∈ t.queue, e ∈ s.queue ∨ e.InRange

theorem StoreKept.refl (s : State) : StoreKept s s :=
  ⟨⟨rfl, rfl, rfl, rfl, rfl, rfl, rfl, rfl, rfl, rfl⟩, rfl, fun _ h => .inl h⟩

theorem SameStore.trans {s t u : State} (h : SameStore s t) (k : SameStore t u) : SameStore s u :=
  ⟨k.records.trans h.records, k.windows.trans h.windows, k.pages.trans h.pages, k.pointer.trans h.pointer,
    k.badCount.trans h.badCount, k.nextSequence.trans h.nextSequence, k.census.trans h.census, k.array.trans h.array,
    k.recovered.trans h.recovered, k.op.trans h.op⟩

theorem StoreKept.trans {s t u : State} (h : StoreKept s t) (k : StoreKept t u) : StoreKept s u :=
  ⟨h.toSameStore.trans k.toSameStore, k.job.trans h.job, fun e he => (k.queue e he).elim (h.queue e) .inr⟩

section
variable (s : State)

/-- A change of ports and leases alone keeps the store. -/
theorem storeKept_of_ports_leases {t : State} (h : ∃ ports leases, t = { s with ports := ports, leases := leases }) :
    StoreKept s t := by
  obtain ⟨_, _, rfl⟩ := h
  exact ⟨⟨rfl, rfl, rfl, rfl, rfl, rfl, rfl, rfl, rfl, rfl⟩, rfl, fun _ h => .inl h⟩

theorem State.onPort_storeKept (p : Port) (f : PortState → PortState) : StoreKept s (s.onPort p f) :=
  storeKept_of_ports_leases s ⟨_, s.leases, rfl⟩

theorem State.setLease_storeKept (w : WindowNo) (l : LeaseState) : StoreKept s (s.setLease w l) :=
  storeKept_of_ports_leases s ⟨s.ports, _, rfl⟩

theorem State.loadTimer_storeKept (w : WindowNo) : StoreKept s (s.loadTimer w) := by
  obtain ⟨leases, h⟩ := s.loadTimer_changes w
  exact storeKept_of_ports_leases s ⟨s.ports, leases, h⟩

theorem State.passOn_storeKept (w : WindowNo) : StoreKept s (s.passOn w) :=
  storeKept_of_ports_leases s (s.passOn_changes w)

theorem State.failQueued_storeKept (e : QueueEntry) (r : FailReason) (record : Option HostRecord) (tell : Bool) :
    StoreKept s (s.failQueued e r record tell) := by
  obtain ⟨_, _, h⟩ := s.failQueued_changes e r record tell
  rw [h]
  exact ⟨⟨rfl, rfl, rfl, rfl, rfl, rfl, rfl, rfl, rfl, rfl⟩, rfl, fun _ h => .inl (List.mem_of_mem_filter h)⟩

theorem State.failAllQueued_storeKept (r : FailReason) : StoreKept s (s.failAllQueued r) := by
  have empty := s.failAllQueued_queue r
  obtain ⟨_, _, _, h⟩ := s.failAllQueued_changes r
  rw [h] at empty ⊢
  exact ⟨⟨rfl, rfl, rfl, rfl, rfl, rfl, rfl, rfl, rfl, rfl⟩, rfl, fun e he => by simp_all⟩

/-- A submission joins the queue with a definition in range, if it is a DEFINE (R118). -/
theorem State.submit_storeKept (p : Port) (st : Staging) (h : ∀ w d, st = .define w d → d.inRange = true) :
    StoreKept s (s.submit p st).1 := by
  rw [State.submit_fst]
  refine ⟨⟨rfl, rfl, rfl, rfl, rfl, rfl, rfl, rfl, rfl, rfl⟩, rfl, fun e he => ?_⟩
  rcases List.mem_append.mp he with he | he
  · exact .inl he
  · cases List.mem_singleton.mp he
    exact .inr h

/-! ## The bodies of the requests -/

theorem readBody_storeKept (record : Byte) : StoreKept s (readBody record s).1 := by
  unfold readBody
  split
  · exact .refl s
  · split <;> exact .refl s

theorem scanBody_storeKept (start scope direction : Byte) : StoreKept s (scanBody start scope direction s).1 := by
  unfold scanBody
  split
  · split <;> exact .refl s
  · exact .refl s

theorem windowsBody_storeKept : StoreKept s (windowsBody s).1 := by
  unfold windowsBody
  split <;> exact .refl s

theorem beginBody_storeKept (p : Port) : StoreKept s (beginBody p s).1 := by
  unfold beginBody
  split
  · exact .refl s
  · split
    · exact storeKept_of_ports_leases s ⟨_, _, rfl⟩
    · exact .refl s

theorem State.stageReload_storeKept (r : HostRecord) : StoreKept s (s.stageReload r) := by
  unfold State.stageReload
  split
  · exact s.loadTimer_storeKept _
  · exact .refl s

theorem State.staged_storeKept (p : Port) (es : List StagedEntry) : StoreKept s (s.staged p es).1 :=
  storeKept_of_ports_leases s ⟨_, _, rfl⟩

theorem stageBody_storeKept (p : Port) (e : StagedEntry) : StoreKept s (stageBody p e s).1 := by
  unfold stageBody
  split
  · exact .refl s
  · split
    · split
      · exact .refl s
      · simp only
        split
        · exact .refl s
        · exact (s.stageReload_storeKept e.record).trans (State.staged_storeKept _ p _)
    · exact .refl s

theorem stageWriteBody_storeKept (p : Port) (record presence : Byte) (expected : Version) (data : List Byte) :
    StoreKept s (stageWriteBody p record presence expected data s).1 := by
  unfold stageWriteBody
  split
  · split
    · exact stageBody_storeKept s p _
    · exact .refl s
  · exact .refl s

theorem stageDeleteBody_storeKept (p : Port) (record presence : Byte) (expected : Version) :
    StoreKept s (stageDeleteBody p record presence expected s).1 := by
  unfold stageDeleteBody
  split
  · exact stageBody_storeKept s p _
  · exact .refl s

theorem dropBody_storeKept (p : Port) (record : Byte) : StoreKept s (dropBody p record s).1 := by
  unfold dropBody
  split
  · exact .refl s
  · split
    · exact .refl s
    · split
      · simp only
        split
        · exact s.staged_storeKept p _
        · exact .refl s
      · exact .refl s

theorem State.freeze_storeKept (p : Port) (st : Staging) : StoreKept s (s.freeze p st) :=
  storeKept_of_ports_leases s ⟨s.ports, _, rfl⟩

theorem commitBody_storeKept (p : Port) : StoreKept s (commitBody p s).1 := by
  unfold commitBody
  split
  · exact .refl s
  · split
    · split
      · exact .refl s
      · exact (s.submit_storeKept p _ fun _ _ e => by cases e).trans (State.freeze_storeKept _ p _)
    · exact .refl s

theorem abortBody_storeKept (p : Port) : StoreKept s (abortBody p s).1 := by
  unfold abortBody
  split
  · exact .refl s
  · split
    · exact .refl s
    · exact s.onPort_storeKept p _
    · split
      · exact s.failQueued_storeKept _ _ _ _
      · exact .refl s
    · exact .refl s

theorem leaseRequest_storeKept (window : Byte) (body : WindowNo → State → State × ResultHolder)
    (h : ∀ w, StoreKept s (body w s).1) : StoreKept s (leaseRequest window body s).1 := by
  unfold leaseRequest
  split
  · exact .refl s
  · split
    · exact .refl s
    · exact h _

theorem grantBody_storeKept (p : Port) (wait : Bool) (w : WindowNo) (ticks : Nat) :
    StoreKept s (grantBody p wait w ticks s).1 := by
  unfold grantBody
  simp only
  split
  · exact s.setLease_storeKept w _
  · split
    · simp only
      split
      · exact .refl s
      · exact s.loadTimer_storeKept w
    · split
      · exact s.setLease_storeKept w _
      · exact .refl s

theorem leaseBody_storeKept (p : Port) (window wait : Byte) : StoreKept s (leaseBody p window wait s).1 := by
  unfold leaseBody
  split
  · exact .refl s
  · refine leaseRequest_storeKept s window _ fun w => ?_
    split
    · exact .refl s
    · split
      · exact grantBody_storeKept s p _ w _
      · exact .refl s
      · exact .refl s

theorem renewBody_storeKept (p : Port) (window : Byte) : StoreKept s (renewBody p window s).1 := by
  refine leaseRequest_storeKept s window _ fun w => ?_
  split
  · exact .refl s
  · split
    · split
      · simp only
        split
        · exact .refl s
        · exact s.loadTimer_storeKept w
      · exact .refl s
    · exact .refl s

theorem releaseBody_storeKept (p : Port) (window : Byte) : StoreKept s (releaseBody p window s).1 := by
  refine leaseRequest_storeKept s window _ fun w => ?_
  split
  · exact .refl s
  · split
    · split
      · exact .refl s
      · exact s.passOn_storeKept w
    · split
      · exact s.setLease_storeKept w _
      · exact .refl s

theorem breakBody_storeKept (p : Port) (window : Byte) : StoreKept s (breakBody p window s).1 := by
  refine leaseRequest_storeKept s window _ fun w => ?_
  split
  · exact .refl s
  · split
    · exact .refl s
    · split
      · exact .refl s
      · split
        · exact .refl s
        · exact (s.onPort_storeKept _ _).trans (State.passOn_storeKept _ w)

theorem watchBody_storeKept (p : Port) (area : Byte) : StoreKept s (watchBody p area s).1 := by
  unfold watchBody
  split
  · exact .refl s
  · split
    · exact .refl s
    · split
      · exact .refl s
      · exact storeKept_of_ports_leases s ⟨_, _, rfl⟩

theorem unwatchBody_storeKept (p : Port) (area : Byte) : StoreKept s (unwatchBody p area s).1 := by
  unfold unwatchBody
  split
  · exact .refl s
  · split
    · exact .refl s
    · split
      · exact .refl s
      · split
        · exact storeKept_of_ports_leases s ⟨_, _, rfl⟩
        · exact .refl s

/-- The definition that the arguments of DEFINE_WINDOW give is in range (R118). -/
theorem definitionArg_inRange {base size policy leaseTime : Byte} {d : WindowDef}
    (h : definitionArg base size policy leaseTime = some d) : d.inRange = true := by
  unfold definitionArg at h
  split at h
  · split at h
    · next hr =>
      cases h
      exact hr
    · cases h
  · cases h

theorem defineBody_storeKept (p : Port) (window base size policy leaseTime : Byte) :
    StoreKept s (defineBody p window base size policy leaseTime s).1 := by
  unfold defineBody
  split
  · next w d _ hd =>
    split
    · exact .refl s
    · split
      · exact .refl s
      · split
        · exact .refl s
        · refine s.submit_storeKept p _ fun _ _ e => ?_
          cases e
          exact definitionArg_inRange hd
  · exact .refl s

theorem clearBody_storeKept (p : Port) (window : Byte) : StoreKept s (clearBody p window s).1 := by
  unfold clearBody
  split
  · exact .refl s
  · split
    · exact .refl s
    · split
      · exact .refl s
      · split
        · exact .refl s
        · exact s.submit_storeKept p _ fun _ _ e => by cases e

theorem State.acceptFormat_storeKept : StoreKept s s.acceptFormat := by
  have told : StoreKept s (({ s with store := .formatting }).notifyAll (.storeState .formatting)) :=
    ⟨⟨rfl, rfl, rfl, rfl, rfl, rfl, rfl, rfl, rfl, rfl⟩, rfl, fun _ h => .inl h⟩
  exact (told.trans (State.failAllQueued_storeKept _ .aborted)).trans (storeKept_of_ports_leases _ ⟨_, _, rfl⟩)

theorem formatBody_storeKept (p : Port) : StoreKept s (formatBody p s).1 := by
  unfold formatBody
  split
  · exact .refl s
  · split
    · exact .refl s
    · exact s.acceptFormat_storeKept

theorem State.resetTransaction_storeKept (p : Port) : StoreKept s (s.resetTransaction p) := by
  unfold State.resetTransaction
  split
  · exact s.onPort_storeKept p _
  · exact s.onPort_storeKept p _
  · split
    · exact s.failQueued_storeKept _ _ _ _
    · exact .refl s
  · exact .refl s

theorem portResetBody_storeKept (p : Port) : StoreKept s (portResetBody p s).1 := by
  have left : StoreKept (s.resetTransaction p) ((s.resetTransaction p).leaveWaitLists p) :=
    storeKept_of_ports_leases _ ⟨_, _, rfl⟩
  exact (((s.resetTransaction_storeKept p).trans left).trans
    (storeKept_of_ports_leases _ (State.passOnAll_changes _ p))).trans (State.onPort_storeKept _ p _)

end

/-! ## The commands -/

theorem serve_storeKept {p : Port} {n : Nat} {body : State → State × ResultHolder} {s t : State}
    (hb : ∀ u, StoreKept u (body u).1) (h : serve p n body s = .next t) : StoreKept s t := by
  unfold serve at h
  split at h
  · cases h
    exact .refl s
  · cases h
    exact ((s.onPort_storeKept p _).trans (hb _)).trans (State.onPort_storeKept _ p _)

theorem atLink_storeKept {p : Port} {f : State → PortState → PortState} {s t : State}
    (h : (.next (s.atLink p f) : Host.Outcome State Fault Refusal) = .next t) : StoreKept s t := by
  cases h
  unfold State.atLink
  split
  · exact .refl s
  · exact s.onPort_storeKept p _

/-- The commands of the ports, the timebase and the pins, but for PFW_DEASSERT and the release from reset (R5, R8). -/
def LeavesEngine (c : Instr) : Prop :=
  (portOf c).isSome ∨ c = .leaseTick ∨ (∃ w, c = .leaseExpiry w) ∨ c = .pfwAssert ∨ c = .holdTakesEffect

/-- A command that is no step of the engine keeps the store and the job (R5, R8, R19). -/
theorem exec_storeKept {c : Instr} {s t : State} (hc : LeavesEngine c) (h : exec c s = .next t) : StoreKept s t := by
  unfold LeavesEngine at hc
  cases c with
  | status p =>
    exact serve_storeKept (body := fun s => (s, .result .ok (s.statusPayload p))) (fun u => .refl u) h
  | read p record => exact serve_storeKept (fun u => readBody_storeKept u record) h
  | scan p a b d => exact serve_storeKept (fun u => scanBody_storeKept u a b d) h
  | windows p => exact serve_storeKept windowsBody_storeKept h
  | beginTxn p => exact serve_storeKept (fun u => beginBody_storeKept u p) h
  | stageWrite p r e v d => exact serve_storeKept (fun u => stageWriteBody_storeKept u p r e v d) h
  | stageDelete p r e v => exact serve_storeKept (fun u => stageDeleteBody_storeKept u p r e v) h
  | dropEntry p r => exact serve_storeKept (fun u => dropBody_storeKept u p r) h
  | commit p => exact serve_storeKept (fun u => commitBody_storeKept u p) h
  | abort p => exact serve_storeKept (fun u => abortBody_storeKept u p) h
  | lease p w x => exact serve_storeKept (fun u => leaseBody_storeKept u p w x) h
  | renew p w => exact serve_storeKept (fun u => renewBody_storeKept u p w) h
  | release p w => exact serve_storeKept (fun u => releaseBody_storeKept u p w) h
  | breakLease p w => exact serve_storeKept (fun u => breakBody_storeKept u p w) h
  | watch p a => exact serve_storeKept (fun u => watchBody_storeKept u p a) h
  | unwatch p a => exact serve_storeKept (fun u => unwatchBody_storeKept u p a) h
  | defineWindow p w b z x y => exact serve_storeKept (fun u => defineBody_storeKept u p w b z x y) h
  | clearWindow p w => exact serve_storeKept (fun u => clearBody_storeKept u p w) h
  | format p => exact serve_storeKept (fun u => formatBody_storeKept u p) h
  | portReset p => exact serve_storeKept (fun u => portResetBody_storeKept u p) h
  | badFrame p wave => exact atLink_storeKept h
  | truncated p wave => exact atLink_storeKept h
  | frameTimeout p wave => exact atLink_storeKept h
  | badLeadByte p lead => exact atLink_storeKept h
  | resultFrame p a => exact atLink_storeKept h
  | scanBlockDelivered p g => exact atLink_storeKept h
  | noticeFrame p a => exact atLink_storeKept h
  | noticeEntryDelivered p g => exact atLink_storeKept h
  | leaseTick =>
    simp only [exec, execLeaseTick] at h
    split at h <;> obtain rfl := Host.Outcome.next.inj h
    · exact .refl s
    · exact storeKept_of_ports_leases s s.tick_changes
  | leaseExpiry w =>
    simp only [exec, execLeaseExpiry] at h
    split at h <;> obtain rfl := Host.Outcome.next.inj h
    · exact storeKept_of_ports_leases s s.tick_changes
    · exact .refl s
  | pfwAssert =>
    simp only [exec, execPfwAssert, Host.Outcome.next.injEq] at h
    subst h
    exact ⟨⟨rfl, rfl, rfl, rfl, rfl, rfl, rfl, rfl, rfl, rfl⟩, rfl, fun _ h => .inl h⟩
  | holdTakesEffect =>
    simp only [exec, execHoldTakesEffect] at h
    split at h <;> obtain rfl := Host.Outcome.next.inj h
    · exact ⟨⟨rfl, rfl, rfl, rfl, rfl, rfl, rfl, rfl, rfl, rfl⟩, rfl, fun _ h => .inl h⟩
    · exact .refl s
  | deviceReset _ => simp [portOf] at hc
  | resetRelease _ _ _ => simp [portOf] at hc
  | mountEnd => simp [portOf] at hc
  | pfwDeassert => simp [portOf] at hc
  | jobChoice _ => simp [portOf] at hc
  | pageProgramVerdict _ => simp [portOf] at hc
  | pageEraseVerdict _ => simp [portOf] at hc
  | formatJobBegin _ => simp [portOf] at hc

/-- The release from reset changes nothing of the store; in device reset it begins the mount (R83). -/
theorem exec_resetRelease {x y z : Bool} {s t : State} (h : exec (.resetRelease x y z) s = .next t) :
    SameStore s t ∧ t.queue = s.queue ∧ (t.job = s.job ∨ s.inReset = true ∧ t.job = .mount) := by
  simp only [exec, execResetRelease] at h
  split at h
  · next hr =>
    cases h
    exact ⟨⟨rfl, rfl, rfl, rfl, rfl, rfl, rfl, rfl, rfl, rfl⟩, rfl, .inr ⟨hr, rfl⟩⟩
  · cases h
    exact ⟨(StoreKept.refl s).toSameStore, rfl, .inl rfl⟩

/-- Every command leaves the engine alone, or is one of the eight that do not. -/
theorem leavesEngine_or (c : Instr) :
    LeavesEngine c ∨ (∃ x y z, c = .resetRelease x y z) ∨ (∃ cut, c = .deviceReset cut) ∨ c = .mountEnd
      ∨ c = .pfwDeassert ∨ (∃ b, c = .jobChoice b) ∨ (∃ v, c = .pageProgramVerdict v)
      ∨ (∃ v, c = .pageEraseVerdict v) ∨ ∃ b, c = .formatJobBegin b := by
  cases c <;> simp [LeavesEngine, portOf]

end Sys2Proof.Machine
end

section
/-!
SUPPORT. What the operations of the Array Engine leave of records, windows, Census, array and queue, and which job they
leave. Pages are the matter of later lemmas.
-/

namespace Sys2Proof.Machine

/-- An operation of the engine that completes no job: records, windows, Census and array stand; entries may leave the queue,
none joins. -/
structure StoreStep (s t : State) : Prop where
  records : t.records = s.records
  windows : t.windows = s.windows
  census : t.census = s.census
  array : t.array = s.array
  queue : t.queue ⊆ s.queue

theorem StoreStep.refl (s : State) : StoreStep s s := ⟨rfl, rfl, rfl, rfl, fun _ h => h⟩

theorem StoreStep.trans {s t u : State} (h : StoreStep s t) (k : StoreStep t u) : StoreStep s u :=
  ⟨k.records.trans h.records, k.windows.trans h.windows, k.census.trans h.census, k.array.trans h.array,
    fun _ he => h.queue (k.queue he)⟩

/-! ## The end of a job -/

section
variable (s : State)

theorem State.failQueued_storeStep (e : QueueEntry) (r : FailReason) (record : Option HostRecord) (tell : Bool) :
    StoreStep s (s.failQueued e r record tell) := by
  obtain ⟨_, _, h⟩ := s.failQueued_changes e r record tell
  rw [h]
  exact ⟨rfl, rfl, rfl, rfl, List.filter_subset_self _⟩

theorem State.failQueued_job (e : QueueEntry) (r : FailReason) (record : Option HostRecord) (tell : Bool) :
    (s.failQueued e r record tell).job = s.job := by
  obtain ⟨_, _, h⟩ := s.failQueued_changes e r record tell
  rw [h]

theorem State.enterReadOnly_storeStep (r : ReadOnlyReason) : StoreStep s (s.enterReadOnly r) := by
  obtain ⟨_, _, h⟩ := s.enterReadOnly_changes r
  rw [h]
  exact ⟨rfl, rfl, rfl, rfl, List.nil_subset _⟩

theorem State.enterReadOnly_job (r : ReadOnlyReason) : (s.enterReadOnly r).job = s.job := by
  obtain ⟨_, _, h⟩ := s.enterReadOnly_changes r
  rw [h]

theorem State.endJob_storeStep : StoreStep s s.endJob := by
  unfold State.endJob
  simp only
  split
  · exact StoreStep.trans (t := { s with job := .idle, op := none }) ⟨rfl, rfl, rfl, rfl, fun _ h => h⟩
      (State.enterReadOnly_storeStep _ .media)
  · exact ⟨rfl, rfl, rfl, rfl, fun _ h => h⟩

theorem State.endJob_job : s.endJob.job = .idle := by
  obtain ⟨_, _, _, _, h⟩ := s.endJob_changes
  rw [h]

theorem State.commitMediaFailure_storeStep (p : Port) (token : Token) : StoreStep s (s.commitMediaFailure p token) :=
  StoreStep.trans (t := ((s.dropPending.onPort p (PortState.failCommit token .media)).notify p
    (.commitFailed token .media none)).endFreeze p) ⟨rfl, rfl, rfl, rfl, fun _ h => h⟩ (State.endJob_storeStep _)

theorem State.commitMediaFailure_job (p : Port) (token : Token) : (s.commitMediaFailure p token).job = .idle :=
  State.endJob_job _

theorem State.relocationMediaFailure_storeStep : StoreStep s s.relocationMediaFailure :=
  StoreStep.trans (t := s.dropPending) ⟨rfl, rfl, rfl, rfl, fun _ h => h⟩ (State.endJob_storeStep _)

theorem State.relocationMediaFailure_job : s.relocationMediaFailure.job = .idle := State.endJob_job _

/-! ## The next program of a run -/

theorem State.programNext_storeStep (run : ImageRun) {fail : State → State} (hf : ∀ t, StoreStep t (fail t)) :
    StoreStep s (s.programNext run fail) := by
  rcases s.programNext_cases run fail with h | ⟨_, _, h⟩ | ⟨i, g, _, _, _, h⟩
  · rw [h]
    exact ⟨rfl, rfl, rfl, rfl, fun _ h => h⟩
  · rw [h]
    exact StoreStep.trans (t := { s with op := none }) ⟨rfl, rfl, rfl, rfl, fun _ h => h⟩ (hf _)
  · rw [h]
    exact ⟨rfl, rfl, rfl, rfl, fun _ h => h⟩

/-- The job goes on, or it has given up. -/
theorem State.programNext_job (run : ImageRun) {fail : State → State} (hf : ∀ t, (fail t).job = .idle) :
    (s.programNext run fail).job = s.job ∨ (s.programNext run fail).job = .idle := by
  rcases s.programNext_cases run fail with h | ⟨_, _, h⟩ | ⟨i, g, _, _, _, h⟩
  · rw [h]
    exact .inl rfl
  · rw [h]
    exact .inr (hf _)
  · rw [h]
    exact .inl rfl

/-! ## The job choice -/

/-- The job of a commit as it starts, its images fixed (R55). -/
def State.commitJob (s : State) (e : QueueEntry) : Job :=
  .commit e.port e.token e.staging ⟨s.nextSequence, s.commitImages s.nextSequence e.staging, [], 0⟩

/-- The pages that a relocation copies: the LIVE ones of its target, in position order (R75). -/
def CensusEntry.livePageNos (e : CensusEntry) : List PageNo := (e.pages.filter CensusPage.live).map CensusPage.page

/-- The job of a relocation as it starts, its images fixed (R75). -/
def State.relocationJob (s : State) (e : CensusEntry) : Job :=
  .relocate e.sequence ⟨s.nextSequence, s.copyImages s.nextSequence e.livePageNos.length 1 e.livePageNos, [], 0⟩

/-- The state in which a commit's first program is issued: the sequence taken, the commit off the queue, its port RUNNING
(R55). -/
def State.commitBegun (s : State) (e : QueueEntry) : State :=
  ({ s with
    nextSequence := s.nextSequence + 1
    queue := s.queue.filter fun x => x.port != e.port
    job := s.commitJob e } : State).onPort e.port fun c => { c with txn := .running }

/-- The state in which a relocation's first program is issued (R75). -/
def State.relocationBegun (s : State) (e : CensusEntry) : State :=
  { s with nextSequence := s.nextSequence + 1, job := s.relocationJob e }

/-- A commit starts with its first program, or no sequence is left (R35, R55). -/
theorem State.startCommit_eq (e : QueueEntry) :
    s.startCommit e = if s.nextSequence = Config.sequenceEnd then s.enterReadOnly .sequence
      else (s.commitBegun e).programNext ⟨s.nextSequence, s.commitImages s.nextSequence e.staging, [], 0⟩
        fun u => u.commitMediaFailure e.port e.token := rfl

/-- A relocation starts with its first program, or no sequence is left (R35, R75). -/
theorem State.startRelocation_eq (e : CensusEntry) :
    s.startRelocation e = if s.nextSequence = Config.sequenceEnd then s.enterReadOnly .sequence
      else (s.relocationBegun e).programNext
        ⟨s.nextSequence, s.copyImages s.nextSequence e.livePageNos.length 1 e.livePageNos, [], 0⟩
        State.relocationMediaFailure := rfl

theorem State.startCommit_storeStep (e : QueueEntry) : StoreStep s (s.startCommit e) := by
  rw [State.startCommit_eq]
  split
  · exact s.enterReadOnly_storeStep _
  · exact StoreStep.trans (t := s.commitBegun e) ⟨rfl, rfl, rfl, rfl, List.filter_subset_self _⟩
      (State.programNext_storeStep _ _ fun t => t.commitMediaFailure_storeStep _ _)

theorem State.startCommit_job (e : QueueEntry) :
    (s.startCommit e).job = s.job ∨ (s.startCommit e).job = .idle ∨ (s.startCommit e).job = s.commitJob e := by
  rw [State.startCommit_eq]
  split
  · exact .inl (s.enterReadOnly_job _)
  · exact .inr ((State.programNext_job _ _ fun t => t.commitMediaFailure_job _ _).symm)

theorem State.startRelocation_storeStep (e : CensusEntry) : StoreStep s (s.startRelocation e) := by
  rw [State.startRelocation_eq]
  split
  · exact s.enterReadOnly_storeStep _
  · exact StoreStep.trans (t := s.relocationBegun e) ⟨rfl, rfl, rfl, rfl, fun _ h => h⟩
      (State.programNext_storeStep _ _ fun t => t.relocationMediaFailure_storeStep)

theorem State.startRelocation_job (e : CensusEntry) :
    (s.startRelocation e).job = s.job ∨ (s.startRelocation e).job = .idle
      ∨ (s.startRelocation e).job = s.relocationJob e := by
  rw [State.startRelocation_eq]
  split
  · exact .inl (s.enterReadOnly_job _)
  · exact .inr ((State.programNext_job _ _ fun t => t.relocationMediaFailure_job).symm)

theorem State.issueErase_storeStep (g : PageNo) : StoreStep s (s.issueErase g) := by
  rw [State.issueErase_changes]
  exact ⟨rfl, rfl, rfl, rfl, fun _ h => h⟩

theorem State.issueErase_job (g : PageNo) : (s.issueErase g).job = s.job := by
  rw [State.issueErase_changes]

theorem State.startErase_storeStep (g : PageNo) : StoreStep s (s.startErase g) := by
  rw [State.startErase_changes]
  exact ⟨rfl, rfl, rfl, rfl, fun _ h => h⟩

/-- What the engine takes up when no commit starts: the erase of a STALE page, a relocation, nothing, or READ_ONLY with
SPACE (R71, R72). -/
inductive State.Reclaims (s : State) : State → Prop where
  | erase {g : PageNo} (h : s.lowestStale = some g) : s.Reclaims (s.startErase g)
  | relocate {e : CensusEntry} (h : s.relocationTarget = some e) : s.Reclaims (s.startRelocation e)
  | nothing : s.Reclaims { s with job := .idle, op := none }
  | space : s.Reclaims (s.enterReadOnly .space)

theorem State.chooseIdle_reclaims : s.Reclaims s.chooseIdle := by
  unfold State.chooseIdle
  split
  · next h => exact .erase h
  · split
    · split
      · next h => exact .relocate h
      · exact .nothing
    · exact .nothing

theorem State.chooseWaiting_reclaims : s.Reclaims s.chooseWaiting := by
  unfold State.chooseWaiting
  split
  · next h => exact .erase h
  · split
    · next h => exact .relocate h
    · exact .space

/-- The engine takes up a queue: some heads fail validation, and then a valid one starts, or the engine reclaims (R53, R54,
R70). -/
inductive State.TakesUp : State → List QueueEntry → State → Prop where
  | reclaims {s t : State} {l : List QueueEntry} (h : s.Reclaims t) : State.TakesUp s l t
  | starts {s : State} {e : QueueEntry} {rest : List QueueEntry} (h : s.validate e = none) :
    State.TakesUp s (e :: rest) (s.startCommit e)
  | fails {s t : State} {e : QueueEntry} {rest : List QueueEntry} (r : FailReason) (record : Option HostRecord)
    (h : State.TakesUp (s.failQueued e r record true) rest t) : State.TakesUp s (e :: rest) t

theorem State.takeUp_takesUp (l : List QueueEntry) : State.TakesUp s l (s.takeUp l) := by
  induction l generalizing s with
  | nil => exact .reclaims s.chooseIdle_reclaims
  | cons e rest ih =>
    unfold State.takeUp
    cases h : s.validate e with
    | some f => exact .fails f.1 f.2 (ih _)
    | none =>
      simp only
      split
      · exact .starts h
      · exact .reclaims s.chooseWaiting_reclaims

end

theorem State.Reclaims.storeStep {s t : State} (h : s.Reclaims t) : StoreStep s t := by
  cases h with
  | erase _ => exact s.startErase_storeStep _
  | relocate _ => exact s.startRelocation_storeStep _
  | nothing => exact ⟨rfl, rfl, rfl, rfl, fun _ h => h⟩
  | space => exact s.enterReadOnly_storeStep _

theorem State.TakesUp.storeStep {s t : State} {l : List QueueEntry} (h : State.TakesUp s l t) : StoreStep s t := by
  induction h with
  | reclaims h => exact h.storeStep
  | starts _ => exact State.startCommit_storeStep _ _
  | fails r record _ ih => exact (State.failQueued_storeStep _ _ r record true).trans ih

/-! ## The format -/

/-- The format has ended: nothing is stored, and the engine is free (R168). -/
structure FormatEnded (s t : State) : Prop where
  records : t.records = .fill 129 .unwritten
  windows : t.windows = .fill 16 none
  census : t.census = []
  nextSequence : t.nextSequence = 1
  job : t.job = .idle
  op : t.op = none
  array : t.array = s.array
  queue : t.queue = s.queue

/-- A FORMAT job goes on to a step, or ends. -/
def FormatGoesOn (s t : State) : Prop :=
  (StoreStep s t ∧ ∃ step noted, t.job = .format step noted) ∨ FormatEnded s t

theorem FormatGoesOn.of_storeStep {s t u : State} (h : StoreStep s t) (hq : t.queue = s.queue) (k : FormatGoesOn t u) :
    FormatGoesOn s u := by
  rcases k with ⟨k, hj⟩ | k
  · exact .inl ⟨h.trans k, hj⟩
  · exact .inr { k with array := k.array.trans h.array, queue := k.queue.trans hq }

section
variable (s : State)

theorem State.formatEnd_ended (noted : List NotedErase) : FormatEnded s (s.formatEnd noted) := by
  obtain ⟨_, _, _, _, h⟩ := s.formatEnd_changes noted
  rw [h]
  exact ⟨rfl, rfl, rfl, rfl, rfl, rfl, rfl, rfl⟩

end

/-- The state with the FORMAT job at a step. -/
def State.inFormat (s : State) (step : FormatStep) (noted : List NotedErase) : State :=
  { s with job := .format step noted }

/-- The EPOCH image that the first step programs (R166). -/
def epochImage (q : Sequence) : PageImage := .checked ⟨.epoch, none, none, q, 1, 1, false⟩ .none

/-- The second step of a format from page `next` on: the next erase, the erase of the epoch page, or the end (R167, R168). -/
inductive State.Sweeps (s : State) (next : Nat) (epochPage : Option PageNo) (noted : List NotedErase) : State → Prop where
  | erase {g : PageNo} (h : s.sweepTarget next epochPage = some g) :
    s.Sweeps next epochPage noted ((s.inFormat (.sweep next epochPage) noted).issueErase g)
  | eraseEpoch {g : PageNo} (h : s.sweepTarget next epochPage = none) (he : epochPage = some g) :
    s.Sweeps next epochPage noted ((s.inFormat (.eraseEpoch g) noted).issueErase g)
  | ends (h : s.sweepTarget next epochPage = none) (he : epochPage = none) :
    s.Sweeps next epochPage noted (s.formatEnd noted)

/-- The first step of a format after `failures` failed attempts (R166): the second step after the third; suspended while PFW
is asserted; the program of a CLEAN page, the erase of the lowest STALE one to get it, or no epoch page. -/
inductive State.AttemptsEpoch (s : State) (q : Sequence) (failures : Nat) (noted : List NotedErase) : State → Prop where
  | givesUp {t : State} (h : s.Sweeps 0 none noted t) : s.AttemptsEpoch q failures noted t
  | waits : s.AttemptsEpoch q failures noted { s.inFormat (.epoch q failures) noted with op := none }
  | programs {g : PageNo} (h : s.findClean = some g) :
    s.AttemptsEpoch q failures noted
      { (s.inFormat (.epoch q failures) noted).allocate g with op := some (.program g (epochImage q)) }
  | erases {g : PageNo} (h : s.lowestStale = some g) :
    s.AttemptsEpoch q failures noted { s.inFormat (.epoch q failures) noted with op := some (.erase g) }
  | noPage {t : State} (h : (s.inFormat (.epoch q failures) noted).Sweeps 0 none noted t) :
    s.AttemptsEpoch q failures noted t

section
variable (s : State)

theorem State.sweep_sweeps (next : Nat) (epochPage : Option PageNo) (noted : List NotedErase) :
    s.Sweeps next epochPage noted (s.sweep next epochPage noted) := by
  unfold State.sweep
  cases h : s.sweepTarget next epochPage with
  | some g => exact .erase h
  | none =>
    cases epochPage with
    | some g => exact .eraseEpoch h rfl
    | none => exact .ends h rfl

theorem State.epochAttempt_attempts (q : Sequence) (failures : Nat) (noted : List NotedErase) :
    s.AttemptsEpoch q failures noted (s.epochAttempt q failures noted) := by
  unfold State.epochAttempt
  simp only
  split
  · exact .givesUp (s.sweep_sweeps 0 none noted)
  · split
    · exact .waits
    · split
      · next g h => exact .programs h
      · split
        · next g h => exact .erases h
        · exact .noPage (State.sweep_sweeps _ 0 none noted)

end

theorem State.inFormat_goesOn (s : State) (step : FormatStep) (noted : List NotedErase) (g : PageNo) :
    FormatGoesOn s ((s.inFormat step noted).issueErase g) :=
  .inl ⟨StoreStep.trans (t := s.inFormat step noted) ⟨rfl, rfl, rfl, rfl, fun _ h => h⟩ (State.issueErase_storeStep _ _),
    step, noted, State.issueErase_job _ _⟩

theorem State.Sweeps.goesOn {s t : State} {next : Nat} {epochPage : Option PageNo} {noted : List NotedErase}
    (h : s.Sweeps next epochPage noted t) : FormatGoesOn s t := by
  cases h with
  | erase _ => exact s.inFormat_goesOn _ noted _
  | eraseEpoch _ _ => exact s.inFormat_goesOn _ noted _
  | ends _ _ => exact .inr (s.formatEnd_ended noted)

/-- With an epoch page the second step does not end the format. -/
theorem State.Sweeps.goesOn_of_epochPage {s t : State} {next : Nat} {g : PageNo} {noted : List NotedErase}
    (h : s.Sweeps next (some g) noted t) : StoreStep s t ∧ ∃ step noted', t.job = .format step noted' := by
  rcases h.goesOn with h | ended
  · exact h
  · cases h with
    | erase _ => exact absurd ((State.issueErase_job _ _).symm.trans ended.job) nofun
    | eraseEpoch _ _ => exact absurd ((State.issueErase_job _ _).symm.trans ended.job) nofun
    | ends _ he => cases he

theorem State.AttemptsEpoch.goesOn {s t : State} {q : Sequence} {failures : Nat} {noted : List NotedErase}
    (h : s.AttemptsEpoch q failures noted t) : FormatGoesOn s t := by
  cases h with
  | givesUp h => exact h.goesOn
  | waits => exact .inl ⟨⟨rfl, rfl, rfl, rfl, fun _ h => h⟩, _, _, rfl⟩
  | programs _ => exact .inl ⟨⟨rfl, rfl, rfl, rfl, fun _ h => h⟩, _, _, rfl⟩
  | erases _ => exact .inl ⟨⟨rfl, rfl, rfl, rfl, fun _ h => h⟩, _, _, rfl⟩
  | noPage h =>
    exact .of_storeStep (t := s.inFormat (.epoch q failures) noted) ⟨rfl, rfl, rfl, rfl, fun _ h => h⟩ rfl h.goesOn

section
variable (s : State)

theorem State.formatNext_goesOn (step : FormatStep) (noted : List NotedErase) :
    FormatGoesOn s (s.formatNext step noted) := by
  cases step with
  | epoch q failures => exact (s.epochAttempt_attempts q failures noted).goesOn
  | sweep next epochPage => exact (s.sweep_sweeps next epochPage noted).goesOn
  | eraseEpoch g => exact s.inFormat_goesOn (.eraseEpoch g) noted g

theorem State.beginFormat_goesOn : FormatGoesOn s s.beginFormat := by
  unfold State.beginFormat
  split
  · exact (s.sweep_sweeps 0 none []).goesOn
  · exact .of_storeStep (t := { s with nextSequence := s.nextSequence + 1 }) ⟨rfl, rfl, rfl, rfl, fun _ h => h⟩ rfl
      (State.epochAttempt_attempts _ _ 0 []).goesOn

theorem State.settleErase_storeStep (g : PageNo) (v : EraseVerdict) :
    StoreStep s (s.settleErase g v) ∧ (s.settleErase g v).queue = s.queue := by
  cases v <;> exact ⟨⟨rfl, rfl, rfl, rfl, fun _ h => h⟩, rfl⟩

theorem State.sweepVerdict_goesOn (g : PageNo) (v : EraseVerdict) (epochPage : Option PageNo) (noted : List NotedErase) :
    FormatGoesOn s (s.sweepVerdict g v epochPage noted) := by
  unfold State.sweepVerdict
  split
  · exact (s.sweep_sweeps _ _ _).goesOn
  · obtain ⟨settled, hq⟩ := s.settleErase_storeStep g v
    exact .of_storeStep settled hq (State.sweep_sweeps _ _ _ _).goesOn

end

end Sys2Proof.Machine
end

section
/-!
SUPPORT. How images take effect on the records, and what the mount finds on the pages.
-/

namespace Sys2Proof.Machine

/-! ## Images that take effect, and the records -/

/-- Images taking effect one by one, each on its page. -/
theorem State.takeEffectAll_cons (s : State) (i : PageImage) (g : PageNo) (images : List PageImage) (pages : List PageNo) :
    s.takeEffectAll (i :: images) (g :: pages) = (s.takeEffect i g).takeEffectAll images pages := rfl

theorem State.record_takeEffect (s : State) (i : PageImage) (g : PageNo) (r : RecordNo) :
    (s.takeEffect i g).record r
      = if i.header.record = some r then (s.record r).switched i g else s.record r := by
  obtain ⟨_, _, h⟩ := s.takeEffect_changes i g
  rw [h]
  cases hr : i.header.record with
  | none => simp [State.record]
  | some q =>
    simp only [State.record, Table.get_set, Option.some.injEq]
    by_cases e : r = q
    · simp [e]
    · simp [e, Ne.symm e]

/-- A record that no image names stays as it is (R5, R8). -/
theorem State.record_takeEffectAll_of_unnamed (s : State) {images : List PageImage} (pages : List PageNo) {r : RecordNo}
    (h : ∀ i ∈ images, i.header.record ≠ some r) : (s.takeEffectAll images pages).record r = s.record r := by
  induction images generalizing s pages with
  | nil => rfl
  | cons i rest ih =>
    cases pages with
    | nil => rfl
    | cons g pages =>
      rw [State.takeEffectAll_cons, ih _ _ fun j hj => h j (List.mem_cons_of_mem _ hj), State.record_takeEffect,
        if_neg (h i List.mem_cons_self)]

/-- Relocated images leave the data of every record (R9, R77). -/
theorem State.payload_takeEffectAll_of_relocated (s : State) {images : List PageImage} (pages : List PageNo)
    (h : ∀ i ∈ images, i.header.relocated = true) (r : RecordNo) :
    ((s.takeEffectAll images pages).record r).payload = (s.record r).payload := by
  induction images generalizing s pages with
  | nil => rfl
  | cons i rest ih =>
    cases pages with
    | nil => rfl
    | cons g pages =>
      rw [State.takeEffectAll_cons, ih _ _ fun j hj => h j (List.mem_cons_of_mem _ hj), State.record_takeEffect]
      split
      · rw [RecordEntry.switched_of_relocated _ _ _ (h i List.mem_cons_self), RecordEntry.moveTo_payload]
      · rfl

/-! ## The images of a commit -/

/-- The image of one record entry, at position `k` (R55). -/
def State.recordImage (s : State) (q : Sequence) (count k : Nat) (e : StagedEntry) : PageImage :=
  match e.op with
  | .write d => .checked ⟨.data, some (tableNo e.record), some (nextVersion (s.record (tableNo e.record)).version), q, k,
      count, false⟩ (.bytes d)
  | .delete => .checked ⟨.tombstone, some (tableNo e.record), some (nextVersion (s.record (tableNo e.record)).version), q,
      k, count, false⟩ .none

theorem State.recordImages_getElem? (s : State) (q : Sequence) (count k : Nat) (es : List StagedEntry) (j : Nat) :
    (s.recordImages q count k es)[j]? = es[j]?.map fun e => s.recordImage q count (k + j) e := by
  induction es generalizing k j with
  | nil => rfl
  | cons e rest ih =>
    have step : s.recordImages q count k (e :: rest) = s.recordImage q count k e :: s.recordImages q count (k + 1) rest := rfl
    rw [step]
    cases j with
    | zero => rfl
    | succ j =>
      rw [List.getElem?_cons_succ, List.getElem?_cons_succ, ih, Nat.add_assoc, Nat.add_comm 1 j]

theorem State.recordImages_length (s : State) (q : Sequence) (count k : Nat) (es : List StagedEntry) :
    (s.recordImages q count k es).length = es.length := by
  induction es generalizing k with
  | nil => rfl
  | cons e rest ih => exact congrArg (· + 1) (ih (k + 1))

@[simp] theorem State.recordImage_record (s : State) (q : Sequence) (count k : Nat) (e : StagedEntry) :
    (s.recordImage q count k e).header.record = some (tableNo e.record) := by
  unfold State.recordImage
  cases e.op <;> rfl

/-- A record commit's images name the records of its entries, in their order. -/
theorem State.recordImages_records (s : State) (q : Sequence) (count k : Nat) (es : List StagedEntry) :
    (s.recordImages q count k es).map (fun i => i.header.record) = es.map fun e => some (tableNo e.record) := by
  apply List.ext_getElem?
  intro j
  rw [List.getElem?_map, List.getElem?_map, State.recordImages_getElem?]
  cases es[j]? with
  | none => rfl
  | some e => exact congrArg some (s.recordImage_record q count (k + j) e)

/-- A relocation's images are marked relocated (R75). -/
theorem State.copyImages_relocated (s : State) (q : Sequence) (count k : Nat) (l : List PageNo) :
    ∀ i ∈ s.copyImages q count k l, i.header.relocated = true := by
  induction l generalizing k with
  | nil => exact fun _ h => absurd h List.not_mem_nil
  | cons g rest ih =>
    unfold State.copyImages
    split
    · exact List.forall_mem_cons.mpr ⟨rfl, ih (k + 1)⟩
    · exact ih (k + 1)

/-! ## What the mount finds -/

theorem mem_foundPages (v : Table PageVerdict 320) (f : Found) : f ∈ foundPages v ↔ v.get f.page = .valid f.image := by
  unfold foundPages allPages
  rw [List.mem_filterMap]
  constructor
  · rintro ⟨g, -, hg⟩
    cases h : v.get g with
    | valid i =>
      simp only [h, PageVerdict.image, Option.map_some, Option.some.injEq] at hg
      subst hg
      exact h
    | blank => simp [h, PageVerdict.image] at hg
    | retired => simp [h, PageVerdict.image] at hg
    | damaged => simp [h, PageVerdict.image] at hg
  · intro h
    exact ⟨f.page, List.mem_finRange _, by simp [h, PageVerdict.image]⟩

/-- An image that a mount reads as VALID has its own check and lies within its ranges (R21). -/
theorem State.inRange_of_verdict {s : State} {g : PageNo} {i : PageImage} (h : s.verdicts.get g = .valid i) :
    i.inRange = true := by
  simp only [State.verdicts, Table.get_map] at h
  unfold PageContent.verdict at h
  split at h
  · cases h
  · cases h
  · split at h
    · next hv =>
      cases h
      exact (Bool.and_eq_true _ _ ▸ hv).2
    · cases h
  · cases h

/-- The pages of complete groups that a mount goes by: none when it found an epoch page (R87, R89). -/
def mountComplete (v : Table PageVerdict 320) : List Found :=
  if (epochPage (foundPages v)).isSome then [] else completeCandidates ((foundPages v).filter Found.isCandidate)

/-- What is known of a page of a complete group: it was found VALID, is a candidate, and its group is complete (R86, R87). -/
structure Found.Complete (v : Table PageVerdict 320) (f : Found) : Prop where
  valid : v.get f.page = .valid f.image
  noEpoch : f.image.header.kind ≠ .epoch
  decodes : f.image.decodes = true
  group : groupComplete (groupOf ((foundPages v).filter Found.isCandidate) f.sequence) = true

theorem complete_of_mem {v : Table PageVerdict 320} {f : Found} (h : f ∈ mountComplete v) : f.Complete v := by
  unfold mountComplete at h
  split at h
  · exact absurd h List.not_mem_nil
  · simp only [completeCandidates, List.mem_filter, Found.isCandidate, Found.isEpoch, Bool.and_eq_true,
      Bool.not_eq_true', beq_eq_false_iff_ne] at h
    obtain ⟨⟨hf, hk, hd⟩, hg⟩ := h
    exact ⟨(mem_foundPages v f).mp hf, hk, hd, hg⟩

/-- The mount's tables, with the pages that they rest on named (R89 to R92). -/
theorem State.rebuild_eq (s : State) (v : Table PageVerdict 320) :
    s.rebuild v = { s with
      pages := mountedPages v (mountComplete v) (epochPage (foundPages v)).isSome
      records := Table.build 129 (mountedRecord (livePages (mountComplete v)))
      windows := mountedWindows (Table.build 129 (mountedRecord (livePages (mountComplete v))))
      census := mountedCensus (mountComplete v)
      pointer := mountedPointer (foundPages v)
      nextSequence := mountedSequence (foundPages v)
      badCount := (mountedPages v (mountComplete v) (epochPage (foundPages v)).isSome).count PageEntry.isBad
      recovered := mountRecovered v (foundPages v) } := rfl

theorem mem_complete_of_live {complete : List Found} {f : Found} (h : f ∈ livePages complete) : f ∈ complete :=
  List.mem_of_mem_filter h

/-- The entry of a record comes from a LIVE page that carries it, or it is UNWRITTEN (R10, R91). -/
theorem mountedRecord_cases (live : List Found) (r : RecordNo) :
    (mountedRecord live r = .unwritten ∧ ∀ f ∈ live, f.image.header.record ≠ some r)
      ∨ ∃ f ∈ live, f.image.header.record = some r ∧ mountedRecord live r = f.image.entry f.page := by
  unfold mountedRecord
  cases h : live.find? fun f => f.image.header.record == some r with
  | none => exact .inl ⟨rfl, by simpa [List.find?_eq_none] using h⟩
  | some f => exact .inr ⟨f, List.mem_of_find?_eq_some h, by simpa using List.find?_some h, rfl⟩

end Sys2Proof.Machine
end

section
/-! SUPPORT. O55: the Window Table, the layout record, and what the queue and the job hold of layouts. -/

namespace Sys2Proof.Machine

/-! ## Layouts -/

theorem WindowDef.overlaps_comm (d e : WindowDef) : d.overlaps e = e.overlaps d := by
  unfold WindowDef.overlaps
  exact Bool.and_comm _ _

theorem Layout.overlapsOther_eq_false_iff (l : Layout) (w : WindowNo) (d : WindowDef) :
    l.overlapsOther w d = false ↔ ∀ v e, v ≠ w → l.get v = some e → d.overlaps e = false := by
  unfold Layout.overlapsOther allWindows
  rw [List.any_eq_false]
  constructor
  · intro h v e hv he
    simpa [hv, he] using h v (List.mem_finRange v)
  · intro h v _
    cases he : l.get v with
    | none => simp
    | some e =>
      by_cases hv : v = w
      · simp [hv]
      · simp [h v e hv he]

/-- A list is valid when every definition is in range and no two overlap (R101, R102). -/
theorem Layout.valid_iff (l : Layout) :
    l.valid = true ↔ ∀ w d, l.get w = some d →
      d.inRange = true ∧ ∀ v e, v ≠ w → l.get v = some e → d.overlaps e = false := by
  unfold Layout.valid allWindows
  rw [List.all_eq_true]
  constructor
  · intro h w d hd
    have := h w (List.mem_finRange w)
    simp only [hd, Bool.and_eq_true, Bool.not_eq_true'] at this
    exact ⟨this.1, (Layout.overlapsOther_eq_false_iff l w d).mp this.2⟩
  · intro h w _
    cases hd : l.get w with
    | none => rfl
    | some d =>
      obtain ⟨hr, ho⟩ := h w d hd
      simp only [hr, (Layout.overlapsOther_eq_false_iff l w d).mpr ho, Bool.not_false, Bool.and_self]

theorem Layout.valid_empty : Layout.valid (.fill 16 none) = true :=
  (Layout.valid_iff _).mpr fun w d h => by simp at h

/-- A list stays valid when a window is cleared. -/
theorem Layout.valid_clear {l : Layout} (h : l.valid = true) (w : WindowNo) : Layout.valid (l.set w none) = true := by
  rw [Layout.valid_iff] at h ⊢
  intro x d hd
  rw [Table.get_set] at hd
  split at hd
  · cases hd
  · refine ⟨(h x d hd).1, fun v e hv he => ?_⟩
    rw [Table.get_set] at he
    split at he
    · cases he
    · exact (h x d hd).2 v e hv he

/-- A list stays valid when a definition in range that overlaps no other takes its place (R120). -/
theorem Layout.valid_define {l : Layout} (h : l.valid = true) {w : WindowNo} {d : WindowDef} (hr : d.inRange = true)
    (ho : l.overlapsOther w d = false) : Layout.valid (l.set w (some d)) = true := by
  rw [Layout.overlapsOther_eq_false_iff] at ho
  rw [Layout.valid_iff] at h ⊢
  intro x e he
  rw [Table.get_set] at he
  split at he
  · next hx =>
    cases he
    refine ⟨hr, fun v f hv hf => ?_⟩
    rw [Table.get_set_ne _ (hx ▸ hv)] at hf
    exact ho v f (hx ▸ hv) hf
  · next hx =>
    refine ⟨(h x e he).1, fun v f hv hf => ?_⟩
    rw [Table.get_set] at hf
    split at hf
    · cases hf
      rw [WindowDef.overlaps_comm]
      exact ho x e hx he
    · exact (h x e he).2 v f hv hf

/-! ## The invariant through the engine's operations -/

/-- The invariant rests on the Window Table, the layout record, the queue and the job. -/
theorem State.LayoutConsistent.of_same {s t : State} (h : s.LayoutConsistent) (hw : t.windows = s.windows)
    (hl : layoutOf (t.record Config.layoutRecord) = layoutOf (s.record Config.layoutRecord))
    (hq : ∀ e ∈ t.queue, e ∈ s.queue ∨ e.InRange) (hj : t.job.LayoutConsistent s.windows) : t.LayoutConsistent := by
  obtain ⟨table, valid, queue, -⟩ := h
  refine ⟨hw.trans (table.trans hl.symm), hw ▸ valid, fun e he => ?_, hw ▸ hj⟩
  rcases hq e he with he | he
  · exact queue e he
  · exact he

theorem StoreStep.record {s t : State} (h : StoreStep s t) (r : RecordNo) : t.record r = s.record r := by
  rw [State.record, h.records]
  rfl

theorem State.LayoutConsistent.of_storeStep {s t : State} (h : s.LayoutConsistent) (k : StoreStep s t)
    (hj : t.job.LayoutConsistent s.windows) : t.LayoutConsistent :=
  h.of_same k.windows (by rw [k.record]) (fun _ he => .inl (k.queue he)) hj

/-- A job that goes on or has ended keeps its hold on layouts. -/
theorem Job.LayoutConsistent.of_same_or_idle {j k : Job} {l : Layout} (h : k.LayoutConsistent l)
    (e : j = k ∨ j = .idle) : j.LayoutConsistent l := by
  rcases e with rfl | rfl
  · exact h
  · trivial

theorem State.LayoutConsistent.of_formatGoesOn {s t : State} (h : s.LayoutConsistent) (k : FormatGoesOn s t) :
    t.LayoutConsistent := by
  rcases k with ⟨k, step, noted, hj⟩ | k
  · exact h.of_storeStep k (hj ▸ trivial)
  · refine ⟨?_, ?_, fun e he => h.2.2.1 e (k.queue ▸ he), k.job ▸ trivial⟩
    · rw [State.record, k.records, k.windows, Table.get_fill]
      rfl
    · rw [k.windows]
      exact Layout.valid_empty

/-! ## The job that the engine chooses -/

/-- A commit that passes validation starts with images that fit the Window Table (R55, R120, R121). -/
theorem State.commitJob_layoutConsistent {s : State} {e : QueueEntry} (hv : s.windows.valid = true) (hr : e.InRange)
    (h : s.validate e = none) : (s.commitJob e).LayoutConsistent s.windows := by
  unfold State.commitJob
  cases hs : e.staging with
  | records es =>
    intro i hi
    obtain ⟨j, hj⟩ := List.mem_iff_getElem?.mp hi
    simp only [State.commitImages, State.recordImages_getElem?] at hj
    cases he : es[j]? with
    | none => simp [he] at hj
    | some x =>
      simp only [he, Option.map_some, Option.some.injEq] at hj
      subst hj
      exact ⟨x.record, s.recordImage_record _ _ _ x⟩
  | define w d =>
    have apart : s.windows.overlapsOther w d = false := by
      simp only [State.validate, hs] at h
      split at h
      · cases h
      · next ho => exact Bool.not_eq_true _ ▸ ho
    exact ⟨_, rfl, rfl, rfl, rfl, rfl, Layout.valid_define hv (hr w d hs) apart⟩
  | clear w => exact ⟨_, rfl, rfl, rfl, rfl, rfl⟩

theorem State.relocationJob_layoutConsistent (s : State) (e : CensusEntry) (l : Layout) :
    (s.relocationJob e).LayoutConsistent l := s.copyImages_relocated _ _ _ _

theorem State.Reclaims.job_layoutConsistent {s t : State} {l : Layout} (h : s.Reclaims t)
    (hs : s.job.LayoutConsistent l) : t.job.LayoutConsistent l := by
  cases h with
  | erase _ =>
    rw [State.startErase_changes]
    trivial
  | @relocate e _ =>
    rcases s.startRelocation_job e with hj | hj | hj <;> rw [hj]
    · exact hs
    · trivial
    · exact s.relocationJob_layoutConsistent e l
  | nothing => trivial
  | space =>
    rw [State.enterReadOnly_job]
    exact hs

theorem State.TakesUp.job_layoutConsistent {s t : State} {l : List QueueEntry} (h : State.TakesUp s l t)
    (hs : s.job.LayoutConsistent s.windows) (hv : s.windows.valid = true) (hl : ∀ e ∈ l, e.InRange) :
    t.job.LayoutConsistent s.windows := by
  induction h with
  | reclaims h => exact h.job_layoutConsistent hs
  | @starts s e rest h =>
    rcases s.startCommit_job e with hj | hj | hj <;> rw [hj]
    · exact hs
    · trivial
    · exact State.commitJob_layoutConsistent hv (hl e List.mem_cons_self) h
  | @fails s t e rest r record _ ih =>
    have same := (s.failQueued_storeStep e r record true).windows
    rw [same, State.failQueued_job] at ih
    exact ih hs hv fun x hx => hl x (List.mem_cons_of_mem _ hx)

/-! ## Commit points -/

section
variable (s : State)

theorem State.endFreeze_storeStep (p : Port) : StoreStep s (s.endFreeze p) := ⟨rfl, rfl, rfl, rfl, fun _ h => h⟩

/-- The commit point of a layout commit: the layout record and the Window Table take the list on the page (R7, R59). -/
theorem State.commitPoint_of_layout {p : Port} {token : Token} {st : Staging} {run : ImageRun} {i : PageImage}
    {g : PageNo} {rest : List PageNo} {l : Layout} {x : WindowNo × LayoutReason} (hst : st.layoutEntry = some x)
    (hi : run.images = [i]) (hg : run.verified = g :: rest) (hk : i.header.kind = .layout)
    (hr : i.header.record = some Config.layoutRecord) (hn : i.header.relocated = false) (hp : i.payload = .layout l) :
    (s.commitPoint p token st run).windows = l
      ∧ layoutOf ((s.commitPoint p token st run).record Config.layoutRecord) = l := by
  have record : layoutOf ((s.takeEffectAll run.images run.verified).record Config.layoutRecord) = l := by
    rw [hi, hg, State.takeEffectAll_cons]
    rw [show (s.takeEffect i g).takeEffectAll [] rest = s.takeEffect i g from rfl, State.record_takeEffect, if_pos hr]
    simp [RecordEntry.switched, PageImage.entry, hn, hk, layoutOf, RecordEntry.payload, hp]
  refine ⟨?_, ?_⟩
  · unfold State.commitPoint
    rw [(State.endJob_storeStep _).windows, (State.endFreeze_storeStep _ p).windows]
    unfold State.announce
    simp only [hst]
    obtain ⟨_, _, h⟩ := State.settleLease_changes (State.sendLayoutChanged _ x.1 x.2 p run.sequence) x.1
    rw [h]
    obtain ⟨_, h⟩ := State.sendLayoutChanged_changes (State.onPorts _ PortState.endAreaScan) x.1 x.2 p run.sequence
    rw [h, State.onPorts_windows]
    obtain ⟨_, h⟩ := State.settleWatches_changes (State.switchWindows _ run.images) x.1 x.2
    rw [h]
    simp [State.switchWindows, hi, hp]
  · obtain ⟨_, _, _, _, _, _, _, h⟩ := s.commitPoint_changes p token st run
    rw [h]
    exact record

theorem State.commitPoint_queue (p : Port) (token : Token) (st : Staging) (run : ImageRun) :
    (s.commitPoint p token st run).queue ⊆ s.queue := by
  unfold State.commitPoint
  refine fun e he => ?_
  have := (State.endJob_storeStep _).queue he
  rw [State.endFreeze_queue] at this
  obtain ⟨_, _, _, h⟩ := State.announce_changes (State.notify _ p _) p st run
  rw [h] at this
  obtain ⟨_, _, _, h⟩ := s.takeEffectAll_changes run.images run.verified
  rw [h] at this
  exact this

theorem State.relocationPoint_queue (run : ImageRun) : (s.relocationPoint run).queue ⊆ s.queue := by
  unfold State.relocationPoint
  refine fun e he => ?_
  have := (State.endJob_storeStep _).queue he
  obtain ⟨_, _, _, h⟩ := s.takeEffectAll_changes run.images run.verified
  rw [h] at this
  exact this

/-- A record commit leaves the Window Table (R102). -/
theorem State.commitPoint_windows_of_records (p : Port) (token : Token) (es : List StagedEntry) (run : ImageRun) :
    (s.commitPoint p token (.records es) run).windows = s.windows := by
  unfold State.commitPoint
  rw [(State.endJob_storeStep _).windows, (State.endFreeze_storeStep _ p).windows,
    State.announce_windows_of_records]
  obtain ⟨_, _, _, h⟩ := s.takeEffectAll_changes run.images run.verified
  rw [h]
  rfl

end

theorem State.LayoutConsistent.commitPoint {s : State} {p : Port} {token : Token} {st : Staging} {run : ImageRun}
    (h : s.LayoutConsistent) (hj : (Job.commit p token st run).LayoutConsistent s.windows) (hv : run.verified ≠ []) :
    (s.commitPoint p token st run).LayoutConsistent := by
  have idle : (s.commitPoint p token st run).job = .idle := State.endJob_job _
  have queue := s.commitPoint_queue p token st run
  obtain ⟨g, rest, hg⟩ := List.exists_cons_of_ne_nil hv
  have layout {l : Layout} (hl : l.valid = true) (hw : (s.commitPoint p token st run).windows = l
      ∧ layoutOf ((s.commitPoint p token st run).record Config.layoutRecord) = l) :
      (s.commitPoint p token st run).LayoutConsistent :=
    ⟨hw.1.trans hw.2.symm, hw.1 ▸ hl, fun e he => h.2.2.1 e (queue he), idle ▸ trivial⟩
  cases st with
  | records es =>
    refine h.of_same (s.commitPoint_windows_of_records p token es run) ?_ (fun e he => .inl (queue he)) (idle ▸ trivial)
    have unnamed : ∀ i ∈ run.images, i.header.record ≠ some Config.layoutRecord := by
      intro i hi e
      obtain ⟨r, hr⟩ := hj i hi
      have : tableNo r = Config.layoutRecord := Option.some.inj (hr.symm.trans e)
      exact absurd (congrArg Fin.val this) (ne_of_lt r.isLt)
    obtain ⟨_, _, _, _, _, _, _, hc⟩ := s.commitPoint_changes p token (.records es) run
    rw [hc, ← s.record_takeEffectAll_of_unnamed run.verified unnamed]
    rfl
  | define w d =>
    obtain ⟨i, hi, hk, hr, hn, hp, hl⟩ := hj
    exact layout hl (s.commitPoint_of_layout rfl hi hg hk hr hn hp)
  | clear w =>
    obtain ⟨i, hi, hk, hr, hn, hp⟩ := hj
    exact layout (Layout.valid_clear h.2.1 w) (s.commitPoint_of_layout rfl hi hg hk hr hn hp)

theorem State.LayoutConsistent.relocationPoint {s : State} {run : ImageRun} (h : s.LayoutConsistent)
    (hr : ∀ i ∈ run.images, i.header.relocated = true) : (s.relocationPoint run).LayoutConsistent := by
  have idle : (s.relocationPoint run).job = .idle := State.endJob_job _
  have queue := s.relocationPoint_queue run
  obtain ⟨_, _, _, _, _, _, hc⟩ := s.relocationPoint_changes run
  refine h.of_same (by rw [hc]) ?_ (fun e he => .inl (queue he)) (idle ▸ trivial)
  have same := s.payload_takeEffectAll_of_relocated run.verified hr Config.layoutRecord
  rw [hc]
  unfold layoutOf
  rw [← same]
  rfl

end Sys2Proof.Machine
end

section
/-! SUPPORT. O55, the commands of the engine. -/

namespace Sys2Proof.Machine

/-! ## The commands of the engine, out of `exec` -/

theorem step_eq_exec {s t : State} (h : step s = .next t) :
    t = s ∨ ∃ c rest, s.pending = c :: rest ∧ exec c { s with pending := rest } = .next t := by
  unfold step at h
  split at h
  · exact .inl (Host.Outcome.next.inj h).symm
  · next c rest hp => exact .inr ⟨c, rest, hp, h⟩

theorem exec_deviceReset {cut : CutOff} {s t : State} (h : exec (.deviceReset cut) s = .next t) :
    t = { (s.cutOff cut).loseVolatile with inReset := true } := (Host.Outcome.next.inj h).symm

/-- A mount ends only where one is under way (R93). -/
theorem exec_mountEnd {s t : State} (h : exec .mountEnd s = .next t) :
    t = s ∨ s.inReset = false ∧ s.job = .mount ∧ t = s.endMount s.verdicts := by
  simp only [exec, execMountEnd] at h
  split at h
  · next hm => exact .inr ⟨hm.1, hm.2, (Host.Outcome.next.inj h).symm⟩
  · exact .inl (Host.Outcome.next.inj h).symm

theorem exec_pfwDeassert {s t : State} (h : exec .pfwDeassert s = .next t) :
    t = ({ s with pfw := false, hold := false } : State).resume := (Host.Outcome.next.inj h).symm

/-- The engine chooses only while it is idle in a READY store (R69). -/
theorem exec_jobChoice {b : Bool} {s t : State} (h : exec (.jobChoice b) s = .next t) :
    t = { s with pfw := s.pfw || b }
      ∨ s.inReset = false ∧ s.store = .ready ∧ s.job = .idle
        ∧ t = ({ s with pfw := s.pfw || b } : State).takeUp s.queue := by
  simp only [exec, execJobChoice] at h
  split at h
  · next hm =>
    simp only [State.mayChoose, Bool.and_eq_true, Bool.not_eq_true', beq_iff_eq] at hm
    obtain ⟨⟨⟨hr, hs⟩, hj⟩, -⟩ := hm
    exact .inr ⟨hr, hs, hj, (Host.Outcome.next.inj h).symm⟩
  · exact .inl (Host.Outcome.next.inj h).symm

/-- The format begins only while the engine is idle in a FORMATTING store (R165). -/
theorem exec_formatJobBegin {b : Bool} {s t : State} (h : exec (.formatJobBegin b) s = .next t) :
    t = { s with pfw := s.pfw || b }
      ∨ s.inReset = false ∧ s.store = .formatting ∧ s.job = .idle
        ∧ t = ({ s with pfw := s.pfw || b } : State).beginFormat := by
  simp only [exec, execFormatJobBegin] at h
  split at h
  · next hm =>
    simp only [State.mayFormat, Bool.and_eq_true, Bool.not_eq_true', beq_iff_eq] at hm
    obtain ⟨⟨⟨hr, hs⟩, hj⟩, -⟩ := hm
    exact .inr ⟨hr, hs, hj, (Host.Outcome.next.inj h).symm⟩
  · exact .inl (Host.Outcome.next.inj h).symm

/-- A verdict on a program comes only where one is in progress (R26, R27). -/
theorem exec_pageProgramVerdict {v : ProgramVerdict} {s t : State} (h : exec (.pageProgramVerdict v) s = .next t) :
    t = s ∨ ∃ g i, s.op = some (.program g i)
      ∧ (v = .pass ∧ t = (s.programPassed g i).afterPass g
        ∨ ∃ mark, v = .fail mark ∧ t = (s.programFailed g mark).afterFail) := by
  simp only [exec, execPageProgramVerdict] at h
  split at h
  · next g i hop =>
    refine .inr ⟨g, i, hop, ?_⟩
    cases v with
    | pass => exact .inl ⟨rfl, (Host.Outcome.next.inj h).symm⟩
    | fail mark => exact .inr ⟨mark, rfl, (Host.Outcome.next.inj h).symm⟩
  · exact .inl (Host.Outcome.next.inj h).symm
  · exact .inl (Host.Outcome.next.inj h).symm

/-- The array as the verdict of an erase leaves it, and no operation (R28). -/
def State.eraseDone (s : State) (g : PageNo) (v : EraseVerdict) : State :=
  { s.setArray g (eraseContent v) with op := none }

/-- A verdict on an erase comes only where one is in progress (R28). -/
theorem exec_pageEraseVerdict {v : EraseVerdict} {s t : State} (h : exec (.pageEraseVerdict v) s = .next t) :
    t = s ∨ ∃ g, s.op = some (.erase g) ∧ t = (s.eraseDone g v).afterErase g v := by
  simp only [exec, execPageEraseVerdict] at h
  split at h
  · next g hop => exact .inr ⟨g, hop, (Host.Outcome.next.inj h).symm⟩
  · exact .inl (Host.Outcome.next.inj h).symm
  · exact .inl (Host.Outcome.next.inj h).symm

/-! ## The invariant at each of them -/

theorem State.LayoutConsistent.of_storeKept {s t : State} (h : s.LayoutConsistent) (k : StoreKept s t) :
    t.LayoutConsistent :=
  h.of_same k.windows (by rw [State.record, k.records]; rfl) k.queue (k.job ▸ h.2.2.2)

/-- A change of array, pages, counts and pins alone. -/
theorem State.LayoutConsistent.of_eq {s t : State} (h : s.LayoutConsistent) (hr : t.records = s.records)
    (hw : t.windows = s.windows) (hq : t.queue = s.queue) (hj : t.job = s.job) : t.LayoutConsistent :=
  h.of_same hw (by rw [State.record, hr]; rfl) (fun _ he => .inl (hq ▸ he)) (hj ▸ h.2.2.2)

/-- A run goes on to its next program (R56, R76). -/
theorem State.LayoutConsistent.programNext {s : State} {run : ImageRun} {fail : State → State} (h : s.LayoutConsistent)
    (hf : ∀ t, StoreStep t (fail t)) (hi : ∀ t, (fail t).job = .idle) : (s.programNext run fail).LayoutConsistent :=
  h.of_storeStep (s.programNext_storeStep run hf) (h.2.2.2.of_same_or_idle (s.programNext_job run hi))

theorem State.LayoutConsistent.commitNext {s : State} {p : Port} {token : Token} {run : ImageRun}
    (h : s.LayoutConsistent) : (s.programNext run fun u => u.commitMediaFailure p token).LayoutConsistent :=
  h.programNext (fun t => t.commitMediaFailure_storeStep p token) fun t => t.commitMediaFailure_job p token

theorem State.LayoutConsistent.relocationNext {s : State} {run : ImageRun} (h : s.LayoutConsistent) :
    (s.programNext run State.relocationMediaFailure).LayoutConsistent :=
  h.programNext (fun t => t.relocationMediaFailure_storeStep) fun t => t.relocationMediaFailure_job

/-- A job that holds the same images holds the same layouts. -/
theorem Job.LayoutConsistent.of_images {p : Port} {token : Token} {st : Staging} {run run' : ImageRun} {l : Layout}
    (h : (Job.commit p token st run).LayoutConsistent l) (hi : run'.images = run.images) :
    (Job.commit p token st run').LayoutConsistent l := by
  cases st <;> simpa only [Job.LayoutConsistent, hi] using h

/-- The invariant with another run of the same images in the job. -/
theorem State.LayoutConsistent.withCommit {s : State} {p : Port} {token : Token} {st : Staging} {run run' : ImageRun}
    (h : s.LayoutConsistent) (hj : s.job = .commit p token st run) (hi : run'.images = run.images) :
    ({ s with job := .commit p token st run' } : State).LayoutConsistent := by
  have fits := h.2.2.2
  rw [hj] at fits
  exact h.of_storeStep ⟨rfl, rfl, rfl, rfl, fun _ h => h⟩ (fits.of_images hi)

theorem State.LayoutConsistent.withRelocation {s : State} {target : Sequence} {run run' : ImageRun}
    (h : s.LayoutConsistent) (hj : s.job = .relocate target run) (hi : run'.images = run.images) :
    ({ s with job := .relocate target run' } : State).LayoutConsistent := by
  have fits := h.2.2.2
  rw [hj] at fits
  refine h.of_storeStep ⟨rfl, rfl, rfl, rfl, fun _ h => h⟩ ?_
  show ∀ i ∈ run'.images, i.header.relocated = true
  rw [hi]
  exact fits

/-- A COMMIT job goes on with another run of the same images. -/
theorem State.LayoutConsistent.commitGoesOn {s : State} {p : Port} {token : Token} {st : Staging} {run : ImageRun}
    (h : s.LayoutConsistent) (hj : s.job = .commit p token st run) (run' : ImageRun) (hi : run'.images = run.images) :
    (({ s with job := .commit p token st run' } : State).programNext run'
      fun u => u.commitMediaFailure p token).LayoutConsistent := (h.withCommit hj hi).commitNext

/-- A RELOCATE job goes on with another run of the same images. -/
theorem State.LayoutConsistent.relocationGoesOn {s : State} {target : Sequence} {run : ImageRun}
    (h : s.LayoutConsistent) (hj : s.job = .relocate target run) (run' : ImageRun) (hi : run'.images = run.images) :
    (({ s with job := .relocate target run' } : State).programNext run' State.relocationMediaFailure).LayoutConsistent :=
  (h.withRelocation hj hi).relocationNext

theorem ImageRun.verified_verify_ne_nil (run : ImageRun) (g : PageNo) : (run.verify g).verified ≠ [] := by
  simp [ImageRun.verify]

theorem State.LayoutConsistent.afterPass {s : State} (h : s.LayoutConsistent) (g : PageNo) :
    (s.afterPass g).LayoutConsistent := by
  have fits := h.2.2.2
  unfold State.afterPass
  split
  · next p token st run hj =>
    rw [hj] at fits
    unfold State.commitPassed
    split
    · exact h.commitPoint (fits.of_images rfl) (run.verified_verify_ne_nil g)
    · exact h.commitGoesOn hj _ rfl
  · next target run hj =>
    rw [hj] at fits
    unfold State.relocationPassed
    split
    · exact h.relocationPoint fits
    · exact h.relocationGoesOn hj _ rfl
  · exact h.of_formatGoesOn (s.sweep_sweeps _ _ _).goesOn
  all_goals exact h

theorem State.LayoutConsistent.afterFail {s : State} (h : s.LayoutConsistent) : s.afterFail.LayoutConsistent := by
  unfold State.afterFail
  split
  · next p token st run hj =>
    unfold State.commitFailed
    split
    · exact h.commitGoesOn hj _ rfl
    · exact h.of_storeStep (s.commitMediaFailure_storeStep p token) (s.commitMediaFailure_job p token ▸ trivial)
  · next target run hj =>
    unfold State.relocationFailed
    split
    · exact h.relocationGoesOn hj _ rfl
    · exact h.of_storeStep s.relocationMediaFailure_storeStep (s.relocationMediaFailure_job ▸ trivial)
  · exact h.of_formatGoesOn (s.epochAttempt_attempts _ _ _).goesOn
  all_goals exact h

theorem State.LayoutConsistent.afterErase {s : State} (h : s.LayoutConsistent) (g : PageNo) (v : EraseVerdict) :
    (s.afterErase g v).LayoutConsistent := by
  have settled : (s.settleErase g v).LayoutConsistent := by
    cases v <;> exact h.of_eq rfl rfl rfl rfl
  unfold State.afterErase
  split
  · exact settled.of_storeStep (State.endJob_storeStep _) (State.endJob_job _ ▸ trivial)
  · exact settled.of_formatGoesOn (State.epochAttempt_attempts _ _ _ _).goesOn
  · exact h.of_formatGoesOn (s.sweepVerdict_goesOn g v _ _)
  · exact settled.of_formatGoesOn (.inr (State.formatEnd_ended _ _))
  all_goals exact h

theorem State.LayoutConsistent.resume {s : State} (h : s.LayoutConsistent) : s.resume.LayoutConsistent := by
  unfold State.resume
  split
  · exact h
  · split
    · exact h
    · exact h
    · exact h.commitNext
    · exact h.relocationNext
    · next g hj =>
      exact h.of_storeStep (s.issueErase_storeStep g) (by rw [State.issueErase_job, hj]; trivial)
    · exact h.of_formatGoesOn (s.formatNext_goesOn _ _)

/-! ## The mount -/

theorem mountedWindows_eq_layoutOf (records : Table RecordEntry 129) :
    mountedWindows records = layoutOf (records.get Config.layoutRecord) := by
  unfold mountedWindows layoutOf
  cases (records.get Config.layoutRecord).payload <;> rfl

/-- The list of a layout record that a mount restores is valid: its page's list decodes (R86). -/
theorem mountedLayout_valid (s : State) :
    (layoutOf (mountedRecord (livePages (mountComplete s.verdicts)) Config.layoutRecord)).valid = true := by
  rcases mountedRecord_cases (livePages (mountComplete s.verdicts)) Config.layoutRecord with ⟨h, -⟩ | ⟨f, hf, -, h⟩
  · rw [h]
    exact Layout.valid_empty
  · have decodes := (complete_of_mem (mem_complete_of_live hf)).decodes
    rw [h]
    unfold layoutOf
    cases hp : (f.image.entry f.page).payload with
    | bytes _ => exact Layout.valid_empty
    | none => exact Layout.valid_empty
    | layout l =>
      have onPage : f.image.payload = .layout l := by
        unfold PageImage.entry at hp
        cases hk : f.image.header.kind <;> simp_all [RecordEntry.payload]
      simpa [PageImage.decodes, onPage] using decodes

theorem State.LayoutConsistent.rebuild {s : State} (h : s.LayoutConsistent) :
    ({ s.rebuild s.verdicts with job := .idle, op := none } : State).LayoutConsistent := by
  rw [State.rebuild_eq]
  refine ⟨mountedWindows_eq_layoutOf _, ?_, h.2.2.1, trivial⟩
  rw [mountedWindows_eq_layoutOf, Table.get_build]
  exact mountedLayout_valid s

/-- The store takes a state and tells the ports. -/
theorem State.LayoutConsistent.tellStore {s : State} (h : s.LayoutConsistent) (st : StoreState) :
    (({ s with store := st } : State).notifyAll (.storeState st)).LayoutConsistent := h.of_eq rfl rfl rfl rfl

theorem State.LayoutConsistent.endMount {s : State} (h : s.LayoutConsistent) :
    (s.endMount s.verdicts).LayoutConsistent := by
  unfold State.endMount
  simp only
  split
  · refine State.LayoutConsistent.of_formatGoesOn ?_ (State.sweep_sweeps _ _ _ _).goesOn
    exact h.rebuild.tellStore .formatting
  · exact h.rebuild.tellStore _

theorem exec_keepsLayout {c : Instr} {s t : State} (hs : s.LayoutConsistent) (h : exec c s = .next t) :
    t.LayoutConsistent := by
  rcases leavesEngine_or c with quiet | ⟨x, y, z, rfl⟩ | ⟨cut, rfl⟩ | rfl | rfl | ⟨b, rfl⟩ | ⟨v, rfl⟩ | ⟨v, rfl⟩ | ⟨b, rfl⟩
  · exact hs.of_storeKept (exec_storeKept quiet h)
  · obtain ⟨same, queue, job⟩ := exec_resetRelease h
    refine hs.of_same same.windows (by rw [State.record, same.records]; rfl) (fun _ he => .inl (queue ▸ he)) ?_
    rcases job with hj | ⟨-, hj⟩
    · exact hj ▸ hs.2.2.2
    · exact hj ▸ trivial
  · obtain rfl := exec_deviceReset h
    exact ⟨rfl, Layout.valid_empty, fun _ he => absurd he List.not_mem_nil, trivial⟩
  · rcases exec_mountEnd h with rfl | ⟨-, -, rfl⟩
    · exact hs
    · exact hs.endMount
  · obtain rfl := exec_pfwDeassert h
    exact (hs.of_eq rfl rfl rfl rfl : ({ s with pfw := false, hold := false } : State).LayoutConsistent).resume
  · have kept : ({ s with pfw := s.pfw || b } : State).LayoutConsistent := hs.of_eq rfl rfl rfl rfl
    rcases exec_jobChoice h with rfl | ⟨-, -, -, rfl⟩
    · exact kept
    · have takes := State.takeUp_takesUp ({ s with pfw := s.pfw || b } : State) s.queue
      exact kept.of_storeStep takes.storeStep (takes.job_layoutConsistent kept.2.2.2 kept.2.1 hs.2.2.1)
  · rcases exec_pageProgramVerdict h with rfl | ⟨g, i, -, ⟨-, rfl⟩ | ⟨mark, -, rfl⟩⟩
    · exact hs
    · exact (hs.of_eq rfl rfl rfl rfl : (s.programPassed g i).LayoutConsistent).afterPass g
    · exact (hs.of_eq rfl rfl rfl rfl : (s.programFailed g mark).LayoutConsistent).afterFail
  · rcases exec_pageEraseVerdict h with rfl | ⟨g, -, rfl⟩
    · exact hs
    · exact (hs.of_eq rfl rfl rfl rfl : (s.eraseDone g v).LayoutConsistent).afterErase g v
  · have kept : ({ s with pfw := s.pfw || b } : State).LayoutConsistent := hs.of_eq rfl rfl rfl rfl
    rcases exec_formatJobBegin h with rfl | ⟨-, -, -, rfl⟩
    · exact kept
    · exact kept.of_formatGoesOn (State.beginFormat_goesOn _)

/-- Settles O55: the store changes its layout at a layout commit point, the end of a mount, a device reset and the end of a
format alone, and each sets table and record together. -/
theorem stepsKeepLayout : Obligations.StepsKeepLayout := by
  intro s t hs h
  rcases step_eq_exec h with rfl | ⟨c, rest, -, h⟩
  · exact hs
  · exact exec_keepsLayout (s := { s with pending := rest }) (hs.of_eq rfl rfl rfl rfl) h

end Sys2Proof.Machine
end

section
/-!
SUPPORT. What the Census and the Page Directory are after images take effect on their pages (R59, R66, R67, R68), from the
invariants of both.
-/

namespace Sys2Proof.Machine

/-! ## The Census read page by page -/

/-- The page holds a stored image that the Census counts: it is LIVE or RETAINED. -/
def PageEntry.isKept (e : PageEntry) : Bool := e.isLive || e.isRetained

theorem PageEntry.isKept_iff (e : PageEntry) : e.isKept = true ↔ e.isLive = true ∨ e.isRetained = true := by
  simp [PageEntry.isKept]

section
variable {s : State} (hc : s.CensusExact)
include hc

/-- One entry to a sequence (R65). -/
theorem State.CensusExact.eq_of_sequence {e f : CensusEntry} (he : e ∈ s.census) (hf : f ∈ s.census)
    (h : e.sequence = f.sequence) : e = f := by
  have nodup : (s.census.map CensusEntry.sequence).Nodup := hc.1.imp fun lt eq => absurd (eq ▸ lt) (lt_irrefl _)
  exact List.inj_on_of_nodup_map nodup he hf h

/-- The page of an entry is LIVE or RETAINED with the entry's sequence (R65). -/
theorem State.CensusExact.page_of_mem {e : CensusEntry} (he : e ∈ s.census) {x : CensusPage} (hx : x ∈ e.pages) :
    ∃ h, s.page x.page = (if x.live then .live h else .retained h) ∧ h.sequence = e.sequence := by
  obtain ⟨k, hk⟩ := List.mem_iff_getElem?.mp hx
  obtain ⟨h, hp, hs, -⟩ := (hc.2.1 e he).2.2.2 k x hk
  exact ⟨h, hp, hs⟩

theorem State.CensusExact.kept_of_mem {e : CensusEntry} (he : e ∈ s.census) {x : CensusPage} (hx : x ∈ e.pages) :
    (s.page x.page).isKept = true := by
  obtain ⟨h, hp, -⟩ := hc.page_of_mem he hx
  rw [hp]
  cases x.live <;> rfl

/-- A page stands in one entry, once (R65). -/
theorem State.CensusExact.eq_of_page {e f : CensusEntry} (he : e ∈ s.census) (hf : f ∈ s.census) {x y : CensusPage}
    (hx : x ∈ e.pages) (hy : y ∈ f.pages) (h : x.page = y.page) : e = f ∧ x = y := by
  obtain ⟨j, hj⟩ := List.mem_iff_getElem?.mp hx
  obtain ⟨k, hk⟩ := List.mem_iff_getElem?.mp hy
  obtain ⟨a, ha, has, haj, -⟩ := (hc.2.1 e he).2.2.2 j x hj
  obtain ⟨b, hb, hbs, hbk, -⟩ := (hc.2.1 f hf).2.2.2 k y hk
  have hab : (if x.live then PageEntry.live a else .retained a) = if y.live then .live b else .retained b := by
    rw [← ha, ← hb, h]
  have : a = b := by
    cases hx : x.live <;> cases hy : y.live <;> simp_all
  subst this
  have same : e = f := hc.eq_of_sequence he hf (has.symm.trans hbs)
  subst same
  have : j = k := by omega
  subst this
  exact ⟨rfl, Option.some.inj (hj.symm.trans hk)⟩

/-- A kept page stands in an entry (R65). -/
theorem State.CensusExact.exists_of_kept {g : PageNo} (h : (s.page g).isKept = true) :
    ∃ e ∈ s.census, ∃ x ∈ e.pages, x.page = g := hc.2.2 g ((PageEntry.isKept_iff _).mp h)

/-- A LIVE page stands as LIVE in the entry of its sequence (R65). -/
theorem State.CensusExact.exists_of_live {g : PageNo} {h : Header} (hg : s.page g = .live h) :
    ∃ e ∈ s.census, e.sequence = h.sequence ∧ ⟨g, true⟩ ∈ e.pages := by
  obtain ⟨e, he, x, hx, rfl⟩ := hc.exists_of_kept (g := g) (by rw [hg]; rfl)
  obtain ⟨k, hk, hs⟩ := hc.page_of_mem he hx
  obtain ⟨g, live⟩ := x
  cases live with
  | false => simp [hg] at hk
  | true =>
    simp only [hg, if_true, PageEntry.live.injEq] at hk
    exact ⟨e, he, hk ▸ hs.symm, hx⟩

end

/-! ## Entries without some of their LIVE pages -/

theorem CensusEntry.live_pos_iff (e : CensusEntry) : 1 ≤ e.live ↔ ∃ x ∈ e.pages, x.live = true :=
  List.countP_pos_iff

theorem CensusEntry.live_eq_zero_iff (e : CensusEntry) : e.live = 0 ↔ ∀ x ∈ e.pages, x.live = false := by
  simp [CensusEntry.live, List.countP_eq_zero]

@[simp] theorem CensusEntry.without_sequence (e : CensusEntry) (gone : PageNo → Bool) :
    (e.without gone).sequence = e.sequence := rfl

/-- An entry has no LIVE page left when every one that it had is gone (R67). -/
theorem CensusEntry.without_live_eq_zero_iff (e : CensusEntry) (gone : PageNo → Bool) :
    (e.without gone).live = 0 ↔ ∀ x ∈ e.pages, x.live = true → gone x.page = true := by
  rw [CensusEntry.live_eq_zero_iff]
  simp only [CensusEntry.without, List.forall_mem_map]
  refine forall₂_congr fun x _ => ?_
  cases x.live <;> simp

/-- Two sets of pages that agree on the pages of an entry leave it alike. -/
theorem CensusEntry.without_congr {e : CensusEntry} {gone gone' : PageNo → Bool}
    (h : ∀ x ∈ e.pages, gone x.page = gone' x.page) : e.without gone = e.without gone' := by
  unfold CensusEntry.without
  congr 1
  exact List.map_congr_left fun x hx => by rw [h x hx]

theorem CensusEntry.without_unlive (e : CensusEntry) (gone : PageNo → Bool) (g : PageNo) :
    (e.without gone).unlive g = e.without fun p => gone p || p == g := by
  unfold CensusEntry.without CensusEntry.unlive
  simp only [List.map_map]
  congr 1
  refine List.map_congr_left fun x _ => ?_
  by_cases h : x.page = g
  · simp [h]
  · simp [h, beq_eq_false_iff_ne.mpr h]

theorem CensusEntry.without_nothing (e : CensusEntry) : (e.without fun _ => false) = e := by
  simp [CensusEntry.without]

/-! ## The pin rule on one page (R67) -/

theorem State.page_makeStale (s : State) (l : List PageNo) (g : PageNo) :
    (s.makeStale l).page g = if g ∈ l then .stale else s.page g := by
  unfold State.makeStale
  induction l generalizing s with
  | nil => rfl
  | cons x rest ih =>
    rw [List.foldl_cons, ih, State.page_setPage]
    by_cases h : g = x <;> by_cases h' : g ∈ rest <;> simp [h, h']

theorem CensusEntry.unlive_pages (e : CensusEntry) (g : PageNo) :
    (e.unlive g).pages.map CensusPage.page = e.pages.map CensusPage.page := by
  simp only [CensusEntry.unlive, List.map_map]
  refine List.map_congr_left fun x _ => ?_
  simp only [Function.comp_apply]
  split <;> rfl

section
variable (s : State) {e : CensusEntry} {q : Sequence} (he : s.census.find? (fun x => x.sequence == q) = some e)
include he

theorem State.page_supersede (g h : PageNo) :
    (s.supersede g q).page h
      = if (e.unlive g).live = 0 then (if h ∈ e.pages.map CensusPage.page then .stale else s.page h)
        else if h = g then (s.page g).toRetained else s.page h := by
  unfold State.supersede
  simp only [he]
  split
  · rw [← e.unlive_pages g]
    exact s.page_makeStale _ h
  · exact s.page_setPage g h _

theorem State.census_supersede (g : PageNo) :
    (s.supersede g q).census
      = if (e.unlive g).live = 0 then s.census.filter fun x => x.sequence != q
        else s.census.map fun x => if x.sequence == q then e.unlive g else x := by
  unfold State.supersede
  simp only [he]
  split <;> rfl

end

/-! ## Images that take effect (R59, R66, R67) -/

/-- The page that an image's taking effect supersedes: the former one of its record (R5, R6). -/
def State.formerPage (s : State) (i : PageImage) : Option PageNo :=
  match i.header.record with
  | some r => (s.record r).backing.map Prod.fst
  | none => none

/-- The pages that the images of a list supersede. -/
def State.gone (s : State) (l : List (PageImage × PageNo)) (g : PageNo) : Bool := l.any fun x => s.formerPage x.1 == some g

theorem State.gone_append (s : State) (l : List (PageImage × PageNo)) (x : PageImage × PageNo) (g : PageNo) :
    s.gone (l ++ [x]) g = (s.gone l g || s.formerPage x.1 == some g) := by
  simp [State.gone]

theorem State.formerPage_eq_some_iff (s : State) (i : PageImage) (g : PageNo) :
    s.formerPage i = some g ↔ ∃ r q, i.header.record = some r ∧ (s.record r).backing = some (g, q) := by
  unfold State.formerPage
  cases i.header.record <;> simp

theorem State.gone_iff (s : State) (l : List (PageImage × PageNo)) (g : PageNo) :
    s.gone l g = true ↔ ∃ x ∈ l, ∃ r q, x.1.header.record = some r ∧ (s.record r).backing = some (g, q) := by
  simp only [State.gone, List.any_eq_true, beq_iff_eq, State.formerPage_eq_some_iff]

/-- Only the page of a record is superseded: a LIVE one (R2, R67). -/
theorem State.gone_of_not_kept {s : State} (hb : s.RecordsBacked) (l : List (PageImage × PageNo)) {g : PageNo}
    (hg : (s.page g).isKept = false) : s.gone l g = false := by
  rw [Bool.eq_false_iff, Ne, State.gone_iff]
  rintro ⟨x, -, r, q, -, hq⟩
  obtain ⟨h, hl, -⟩ := hb.1 r g q hq
  rw [hl] at hg
  cases hg

theorem State.supersedes_eq_gone (s : State) (images : List PageImage) (pages : List PageNo)
    (h : images.length = pages.length) (g : PageNo) : s.supersedes images g = s.gone (images.zip pages) g := by
  have : s.gone (images.zip pages) g = images.any fun i => s.formerPage i == some g := by
    conv_rhs => rw [← List.map_fst_zip (l₁ := images) (l₂ := pages) (by omega)]
    rw [List.any_map]
    rfl
  rw [this]
  unfold State.supersedes
  congr 1
  funext i
  unfold State.formerPage
  cases i.header.record <;> rfl

/-- The Census after the pages of `gone` are no longer LIVE: an entry without a LIVE page is gone (R67). -/
def State.censusWithout (s : State) (gone : PageNo → Bool) : List CensusEntry :=
  s.census.filterMap fun e => if 1 ≤ (e.without gone).live then some (e.without gone) else none

/-- A page, not one of the job's own, after those of `gone` are no longer LIVE (R67, R68). -/
def State.pageWithout (s : State) (gone : PageNo → Bool) (g : PageNo) : PageEntry :=
  if s.census.any fun e => e.pages.any (fun x => x.page == g) && (e.without gone).live == 0 then .stale
  else if gone g then (s.page g).toRetained else s.page g

theorem State.mem_censusWithout (s : State) (gone : PageNo → Bool) (f : CensusEntry) :
    f ∈ s.censusWithout gone ↔ ∃ e ∈ s.census, 1 ≤ (e.without gone).live ∧ f = e.without gone := by
  simp only [State.censusWithout, List.mem_filterMap, Option.ite_none_right_eq_some, Option.some.injEq]
  refine exists_congr fun e => and_congr_right fun _ => and_congr_right fun _ => ?_
  exact eq_comm

theorem State.censusWithout_eq_filter_map (s : State) (gone : PageNo → Bool) :
    s.censusWithout gone = (s.census.map fun e => e.without gone).filter fun e => decide (1 ≤ e.live) := by
  unfold State.censusWithout
  rw [List.filter_map, ← List.filterMap_eq_map, ← List.filterMap_eq_filter, List.filterMap_filterMap]
  refine List.filterMap_congr fun e _ => ?_
  by_cases h : 1 ≤ (e.without gone).live <;> simp [h, Option.guard]

section
variable {s : State} (hc : s.CensusExact)
include hc

/-- A page of a Census entry goes by what is left of that entry (R67). -/
theorem State.pageWithout_of_mem {gone : PageNo → Bool} {e : CensusEntry} (he : e ∈ s.census) {x : CensusPage}
    (hx : x ∈ e.pages) :
    s.pageWithout gone x.page
      = if (e.without gone).live = 0 then .stale
        else if gone x.page then (s.page x.page).toRetained else s.page x.page := by
  unfold State.pageWithout
  by_cases dead : (e.without gone).live = 0
  · rw [if_pos dead, if_pos]
    simp only [List.any_eq_true, Bool.and_eq_true, beq_iff_eq]
    exact ⟨e, he, ⟨x, hx, rfl⟩, dead⟩
  · rw [if_neg dead, if_neg]
    simp only [List.any_eq_true, Bool.and_eq_true, beq_iff_eq, not_exists, not_and]
    rintro f hf ⟨y, hy, hxy⟩
    obtain ⟨rfl, -⟩ := hc.eq_of_page hf he hy hx hxy
    exact dead

/-- A page that no Census entry holds is untouched, unless it is superseded. -/
theorem State.pageWithout_of_not_kept {gone : PageNo → Bool} {g : PageNo} (hg : (s.page g).isKept = false)
    (hn : gone g = false) : s.pageWithout gone g = s.page g := by
  unfold State.pageWithout
  rw [if_neg, if_neg (by simp [hn])]
  simp only [List.any_eq_true, Bool.and_eq_true, beq_iff_eq, not_exists, not_and]
  rintro f hf ⟨y, hy, rfl⟩
  rw [hc.kept_of_mem hf hy] at hg
  cases hg

end

/-- Images may take effect on pages: distinct records, distinct pages, and no page that is LIVE or RETAINED. -/
structure State.MayTakeEffect (s : State) (l : List (PageImage × PageNo)) : Prop where
  named : ∀ x ∈ l, x.1.header.record.isSome = true
  records : (l.map fun x => x.1.header.record).Nodup
  pages : (l.map Prod.snd).Nodup
  fresh : ∀ x ∈ l, (s.page x.2).isKept = false

/-- State `t` is state `s` after the images of `l` took effect on their pages: pages, Census and records (R59, R66, R67). -/
structure State.Effected (s t : State) (l : List (PageImage × PageNo)) : Prop where
  page : ∀ g, t.page g = match l.find? fun x => x.2 == g with
    | some x => .live x.1.header
    | none => s.pageWithout (s.gone l) g
  census : t.census = s.censusWithout (s.gone l)
  record : ∀ r, t.record r = match l.find? fun x => x.1.header.record == some r with
    | some x => (s.record r).switched x.1 x.2
    | none => s.record r

/-! ### One image more -/

theorem State.MayTakeEffect.init {s : State} {l : List (PageImage × PageNo)} {x : PageImage × PageNo}
    (h : s.MayTakeEffect (l ++ [x])) : s.MayTakeEffect l where
  named y hy := h.named y (List.mem_append_left _ hy)
  records := by
    have := h.records
    rw [List.map_append] at this
    exact this.of_append_left
  pages := by
    have := h.pages
    rw [List.map_append] at this
    exact this.of_append_left
  fresh y hy := h.fresh y (List.mem_append_left _ hy)

/-- The last image's page is no page of the images before it. -/
theorem State.MayTakeEffect.find?_page {s : State} {l : List (PageImage × PageNo)} {x : PageImage × PageNo}
    (h : s.MayTakeEffect (l ++ [x])) (g : PageNo) :
    (l ++ [x]).find? (fun y => y.2 == g) = if g = x.2 then some x else l.find? fun y => y.2 == g := by
  have apart := (List.nodup_append.mp (List.map_append ▸ h.pages)).2.2
  by_cases hg : g = x.2
  · subst hg
    rw [if_pos rfl, List.find?_append, List.find?_eq_none.mpr]
    · simp
    · intro y hy
      simpa using apart y.2 (List.mem_map_of_mem hy) x.2 (by simp)
  · rw [if_neg hg, List.find?_append]
    simp [Ne.symm hg]

/-- The last image's record is no record of the images before it. -/
theorem State.MayTakeEffect.find?_record {s : State} {l : List (PageImage × PageNo)} {x : PageImage × PageNo}
    (h : s.MayTakeEffect (l ++ [x])) (r : RecordNo) :
    (l ++ [x]).find? (fun y => y.1.header.record == some r)
      = if x.1.header.record = some r then some x else l.find? fun y => y.1.header.record == some r := by
  have apart := (List.nodup_append.mp (List.map_append ▸ h.records)).2.2
  by_cases hr : x.1.header.record = some r
  · rw [if_pos hr, List.find?_append, List.find?_eq_none.mpr]
    · simp [hr]
    · intro y hy
      simpa [hr] using apart y.1.header.record (List.mem_map_of_mem hy) x.1.header.record (by simp)
  · rw [if_neg hr, List.find?_append]
    simp [hr]

/-- The record of the last image still stands as it stood, for no image before it named it. -/
theorem State.Effected.record_last {s t : State} {l : List (PageImage × PageNo)} {x : PageImage × PageNo}
    (e : s.Effected t l) (h : s.MayTakeEffect (l ++ [x])) {r : RecordNo} (hr : x.1.header.record = some r) :
    t.record r = s.record r := by
  have apart := (List.nodup_append.mp (List.map_append ▸ h.records)).2.2
  have unnamed : l.find? (fun y => y.1.header.record == some r) = none := by
    rw [List.find?_eq_none]
    intro y hy
    simpa [hr] using apart y.1.header.record (List.mem_map_of_mem hy) x.1.header.record (by simp)
  rw [e.record, unnamed]

/-- What the pin rule does in `t`, which stands after the images of `l`, to the Census and to the old pages: what it does in
`s` when the page superseded is counted with those gone before it (R67). -/
structure State.Supersedes (s t u : State) (l : List (PageImage × PageNo)) (x : PageImage × PageNo) : Prop where
  census : u.census = s.censusWithout (s.gone (l ++ [x]))
  kept : ∀ g, (s.page g).isKept = true → u.page g = s.pageWithout (s.gone (l ++ [x])) g
  other : ∀ g, (s.page g).isKept = false → u.page g = t.page g

section
variable {s t : State} {l : List (PageImage × PageNo)} {x : PageImage × PageNo}

/-- An old page stands in `t` as the images of `l` leave it. -/
theorem State.Effected.page_of_kept (e : s.Effected t l) (h : s.MayTakeEffect l) {g : PageNo}
    (hg : (s.page g).isKept = true) : t.page g = s.pageWithout (s.gone l) g := by
  have : l.find? (fun y => y.2 == g) = none := by
    rw [List.find?_eq_none]
    intro y hy hyg
    rw [← eq_of_beq hyg, h.fresh y hy] at hg
    cases hg
  rw [e.page, this]

/-- A record's page is superseded by the one image that names the record. -/
theorem State.gone_backing (hb : s.RecordsBacked) (h : s.MayTakeEffect (l ++ [x])) {r : RecordNo} {g : PageNo}
    {q : Sequence} (hr : x.1.header.record = some r) (hg : (s.record r).backing = some (g, q)) : s.gone l g = false := by
  have apart := (List.nodup_append.mp (List.map_append ▸ h.records)).2.2
  rw [Bool.eq_false_iff, Ne, State.gone_iff]
  rintro ⟨y, hy, r', q', hr', hq'⟩
  obtain ⟨a, ha, har, -⟩ := hb.1 r g q hg
  obtain ⟨b, hbg, hbr, -⟩ := hb.1 r' g q' hq'
  rw [ha] at hbg
  cases hbg
  have : r = r' := Option.some.inj (har.symm.trans hbr)
  subst this
  exact apart y.1.header.record (List.mem_map_of_mem hy) x.1.header.record (by simp) (hr'.trans hr.symm)

theorem State.Effected.supersedes (hb : s.RecordsBacked) (hc : s.CensusExact) (e : s.Effected t l)
    (h : s.MayTakeEffect (l ++ [x])) {r : RecordNo} (hr : x.1.header.record = some r) :
    s.Supersedes t (t.supersedeRecord r) l x := by
  have former : s.formerPage x.1 = (s.record r).backing.map Prod.fst := by simp only [State.formerPage, hr]
  unfold State.supersedeRecord
  rw [e.record_last h hr]
  cases hback : (s.record r).backing with
  | none =>
    have same : s.gone (l ++ [x]) = s.gone l := by
      funext g
      simp [State.gone_append, former, hback]
    exact ⟨same ▸ e.census, fun g hg => same ▸ e.page_of_kept h.init hg, fun _ _ => rfl⟩
  | some b =>
    obtain ⟨g₀, q₀⟩ := b
    simp only
    have goneNext : s.gone (l ++ [x]) = fun p => s.gone l p || p == g₀ := by
      funext g
      rw [State.gone_append, former, hback]
      simp [Bool.beq_eq_decide_eq, eq_comm]
    have notYet := State.gone_backing hb h hr hback
    obtain ⟨h₀, hlive, -, -, hseq, -⟩ := hb.1 r g₀ q₀ hback
    obtain ⟨c, hcs, hcq, hmem⟩ := hc.exists_of_live hlive
    have hcq : c.sequence = q₀ := hcq.trans hseq
    have alive : 1 ≤ (c.without (s.gone l)).live := by
      rw [Nat.one_le_iff_ne_zero, Ne, CensusEntry.without_live_eq_zero_iff]
      exact fun all => absurd (all _ hmem rfl) (by simp [notYet])
    -- the entry as it stands in `t`, found by its sequence
    have found : t.census.find? (fun y => y.sequence == q₀) = some (c.without (s.gone l)) := by
      have mem : c.without (s.gone l) ∈ t.census := by
        rw [e.census, State.mem_censusWithout]
        exact ⟨c, hcs, alive, rfl⟩
      cases hf : t.census.find? fun y => y.sequence == q₀ with
      | none => exact absurd (List.find?_eq_none.mp hf _ mem) (by simp [hcq])
      | some f =>
        have hfq := List.find?_some hf
        have hfm := List.mem_of_find?_eq_some hf
        rw [e.census, State.mem_censusWithout] at hfm
        obtain ⟨c', hc', -, rfl⟩ := hfm
        have : c' = c := hc.eq_of_sequence hc' hcs (by simpa [hcq] using hfq)
        rw [this]
    have unlive : (c.without (s.gone l)).unlive g₀ = c.without (s.gone (l ++ [x])) := by
      rw [CensusEntry.without_unlive, goneNext]
    have pagesOf : (c.without (s.gone l)).pages.map CensusPage.page = c.pages.map CensusPage.page := by
      simp [CensusEntry.without]
    -- an entry other than that one keeps what it has
    have apart {d : CensusEntry} (hd : d ∈ s.census) (hne : d.sequence ≠ q₀) :
        d.without (s.gone (l ++ [x])) = d.without (s.gone l) := by
      rw [goneNext]
      refine CensusEntry.without_congr fun y hy => ?_
      have : y.page ≠ g₀ := fun hy' => by
        obtain ⟨rfl, -⟩ := hc.eq_of_page hd hcs hy hmem hy'
        exact hne hcq
      simp [this]
    refine ⟨?_, fun g hg => ?_, fun g hg => ?_⟩
    · rw [State.census_supersede t found, unlive, e.census]
      unfold State.censusWithout
      split
      · next dead =>
        rw [List.filter_filterMap]
        refine List.filterMap_congr fun d hd => ?_
        by_cases hq : d.sequence = q₀
        · obtain rfl := hc.eq_of_sequence hd hcs (hq.trans hcq.symm)
          simp [dead, alive, hq, Option.filter]
        · rw [apart hd hq]
          split <;> simp [hq, Option.filter]
      · next left =>
        rw [List.map_filterMap]
        refine List.filterMap_congr fun d hd => ?_
        by_cases hq : d.sequence = q₀
        · obtain rfl := hc.eq_of_sequence hd hcs (hq.trans hcq.symm)
          simp [Nat.one_le_iff_ne_zero.mpr left, alive, hq]
        · rw [apart hd hq]
          split <;> simp [hq]
    · obtain ⟨d, hd, y, hy, rfl⟩ := hc.exists_of_kept hg
      have before := e.page_of_kept h.init hg
      rw [State.pageWithout_of_mem hc hd hy] at before
      rw [State.page_supersede t found, unlive, pagesOf, State.pageWithout_of_mem hc hd hy]
      by_cases hq : d.sequence = q₀
      · obtain rfl := hc.eq_of_sequence hd hcs (hq.trans hcq.symm)
        rw [if_neg (Nat.one_le_iff_ne_zero.mp alive)] at before
        by_cases dead : (d.without (s.gone (l ++ [x]))).live = 0
        · rw [if_pos dead, if_pos dead, if_pos (List.mem_map_of_mem hy)]
        · rw [if_neg dead, if_neg dead, before, goneNext]
          by_cases hy₀ : y.page = g₀
          · rw [hy₀, notYet] at before
            simp [hy₀, before]
          · simp [hy₀]
      · have outside : y.page ∉ c.pages.map CensusPage.page := by
          intro hm
          obtain ⟨z, hz, hzy⟩ := List.mem_map.mp hm
          obtain ⟨rfl, -⟩ := hc.eq_of_page hd hcs hy hz hzy.symm
          exact hq hcq
        have hy₀ : y.page ≠ g₀ := fun hy₀ => outside (hy₀ ▸ List.mem_map_of_mem (f := CensusPage.page) hmem)
        rw [if_neg outside, if_neg hy₀, ite_self, before, apart hd hq, goneNext]
        simp [hy₀]
    · have notIn : g ∉ c.pages.map CensusPage.page := by
        intro hm
        obtain ⟨y, hy, rfl⟩ := List.mem_map.mp hm
        rw [hc.kept_of_mem hcs hy] at hg
        cases hg
      have : g ≠ g₀ := fun hgg => notIn (hgg ▸ List.mem_map_of_mem (f := CensusPage.page) hmem)
      rw [State.page_supersede t found, pagesOf, if_neg notIn, if_neg this]
      exact ite_self _

/-- An image takes effect on its page: one image more (R5, R30, R59, R67). -/
theorem State.Effected.takeEffect (hb : s.RecordsBacked) (hc : s.CensusExact) (e : s.Effected t l)
    (h : s.MayTakeEffect (l ++ [x])) : s.Effected (t.takeEffect x.1 x.2) (l ++ [x]) := by
  obtain ⟨r, hr⟩ := Option.isSome_iff_exists.mp (h.named x (by simp))
  have sup := e.supersedes hb hc h hr
  have fresh := h.fresh x (by simp)
  have effect : t.takeEffect x.1 x.2
      = ((t.supersedeRecord r).setPage x.2 (.live x.1.header)).setRecord r ((t.record r).switched x.1 x.2) := by
    simp only [State.takeEffect, hr]
  refine ⟨fun g => ?_, ?_, fun q => ?_⟩
  · rw [h.find?_page, effect]
    show ((t.supersedeRecord r).setPage x.2 (.live x.1.header)).page g = _
    rw [State.page_setPage]
    by_cases hg : g = x.2
    · rw [if_pos hg, if_pos hg]
    · rw [if_neg hg, if_neg hg]
      cases kept : (s.page g).isKept with
      | true =>
        have : l.find? (fun y => y.2 == g) = none := by
          rw [List.find?_eq_none]
          intro y hy hyg
          rw [← eq_of_beq hyg, h.fresh y (List.mem_append_left _ hy)] at kept
          cases kept
        rw [sup.kept g kept, this]
      | false =>
        rw [sup.other g kept, e.page]
        cases l.find? fun y => y.2 == g with
        | some y => rfl
        | none =>
          exact (State.pageWithout_of_not_kept hc kept (State.gone_of_not_kept hb l kept)).trans
            (State.pageWithout_of_not_kept hc kept (State.gone_of_not_kept hb (l ++ [x]) kept)).symm
  · rw [effect]
    exact sup.census
  · rw [h.find?_record, State.record_takeEffect]
    by_cases hq : x.1.header.record = some q
    · rw [if_pos hq, if_pos hq, e.record_last h hq]
    · rw [if_neg hq, if_neg hq, e.record]

end

/-- No image: the state as it stands. -/
theorem State.Effected.nil {s : State} (hc : s.CensusExact) : s.Effected s [] where
  page g := by
    cases kept : (s.page g).isKept with
    | false => exact (State.pageWithout_of_not_kept hc kept rfl).symm
    | true =>
      obtain ⟨e, he, x, hx, rfl⟩ := hc.exists_of_kept kept
      have alive : (e.without (s.gone [])).live ≠ 0 := by
        have := (hc.2.1 e he).2.1
        rw [show e.without (s.gone []) = e from e.without_nothing]
        omega
      simp only [List.find?_nil]
      rw [State.pageWithout_of_mem hc he hx, if_neg alive]
      rfl
  census := by
    unfold State.censusWithout
    have : ∀ e ∈ s.census, (if 1 ≤ (e.without (s.gone [])).live then some (e.without (s.gone [])) else none) = some e := by
      intro e he
      rw [show e.without (s.gone []) = e from e.without_nothing, if_pos (hc.2.1 e he).2.1]
    rw [List.filterMap_congr this, List.filterMap_some]
  record _ := rfl

/-- Images that may take effect have it: pages, Census and records in one event (R5, R59, R66, R67, R77). -/
theorem State.effected_takeEffectAll {s : State} (hb : s.RecordsBacked) (hc : s.CensusExact) {images : List PageImage}
    {pages : List PageNo} (h : s.MayTakeEffect (images.zip pages)) :
    s.Effected (s.takeEffectAll images pages) (images.zip pages) := by
  unfold State.takeEffectAll
  revert h
  generalize images.zip pages = l
  induction l using List.reverseRecOn with
  | nil => exact fun _ => .nil hc
  | append_singleton l x ih =>
    intro h
    rw [List.foldl_append]
    exact (ih h.init).takeEffect hb hc h

end Sys2Proof.Machine
end

section
/-!
SUPPORT. The tables of a store fit together (R2, R22, R31, R65), what leaves them in fit, and a run whose positions are all
verified.
-/

namespace Sys2Proof.Machine

/-- Records, Census and bad count fit the Page Directory, whatever the engine does. -/
structure State.TablesFit (s : State) : Prop where
  backed : s.RecordsBacked
  census : s.CensusExact
  bad : s.badCount = (allPages.filter fun g => (s.page g).isBad).length

theorem State.DirectoryConsistent.tables {s : State} (h : s.DirectoryConsistent) : s.TablesFit :=
  ⟨h.1, h.2.1, h.2.2.1⟩

theorem State.DirectoryConsistent.job {s : State} (h : s.DirectoryConsistent) : s.JobFits := h.2.2.2

theorem State.TablesFit.withJob {s : State} (h : s.TablesFit) (hj : s.JobFits) : s.DirectoryConsistent :=
  ⟨h.backed, h.census, h.bad, hj⟩

/-! ## Pages that neither hold nor take a stored image -/

/-- The LIVE and RETAINED pages of `s` and `t` are the same, with the same entries. -/
def State.SameKept (s t : State) : Prop :=
  ∀ g, t.page g = s.page g ∨ (s.page g).isKept = false ∧ (t.page g).isKept = false

section
variable {s t : State}

theorem State.SameKept.of_live (h : s.SameKept t) {g : PageNo} {k : Header} (hg : s.page g = .live k) :
    t.page g = .live k := by
  rcases h g with e | ⟨e, -⟩
  · exact e.trans hg
  · simp [hg, PageEntry.isKept, PageEntry.isLive] at e

theorem State.SameKept.of_retained (h : s.SameKept t) {g : PageNo} {k : Header} (hg : s.page g = .retained k) :
    t.page g = .retained k := by
  rcases h g with e | ⟨e, -⟩
  · exact e.trans hg
  · simp [hg, PageEntry.isKept, PageEntry.isRetained] at e

theorem State.SameKept.symm (h : s.SameKept t) : t.SameKept s := fun g =>
  (h g).imp Eq.symm And.symm

/-- Records and Census fit as long as the stored pages, the records and the Census stand. -/
theorem State.SameKept.recordsBacked (h : s.SameKept t) (hb : s.RecordsBacked) (hr : t.records = s.records) :
    t.RecordsBacked := by
  have record (r : RecordNo) : t.record r = s.record r := by rw [State.record, hr]; rfl
  refine ⟨fun r g q hq => ?_, fun g k hk => ?_⟩
  · rw [record] at hq ⊢
    obtain ⟨k, hk, rest⟩ := hb.1 r g q hq
    exact ⟨k, h.of_live hk, rest⟩
  · obtain ⟨r, hr, hq⟩ := hb.2 g k (h.symm.of_live hk)
    exact ⟨r, hr, by rw [record, hq]⟩

theorem State.SameKept.censusExact (h : s.SameKept t) (hc : s.CensusExact) (he : t.census = s.census)
    (hn : s.nextSequence.toNat ≤ t.nextSequence.toNat) : t.CensusExact := by
  refine ⟨he ▸ hc.1, fun e hm => ?_, fun g hg => ?_⟩
  · obtain ⟨below, alive, few, pages⟩ := hc.2.1 e (he ▸ hm)
    refine ⟨lt_of_lt_of_le below hn, alive, few, fun k x hx => ?_⟩
    obtain ⟨d, hd, rest⟩ := pages k x hx
    refine ⟨d, ?_, rest⟩
    cases hl : x.live <;> simp only [hl, if_true] at hd ⊢
    · exact h.of_retained hd
    · exact h.of_live hd
  · rw [he]
    have kept : (t.page g).isKept = true := (PageEntry.isKept_iff _).mpr hg
    rcases h g with e | ⟨-, e⟩
    · exact hc.exists_of_kept (e ▸ kept)
    · rw [e] at kept
      cases kept

/-- The tables fit still: the stored pages, records and Census stand, and the bad count is right. -/
theorem State.TablesFit.of_sameKept (hs : s.TablesFit) (h : s.SameKept t) (hr : t.records = s.records)
    (he : t.census = s.census) (hn : s.nextSequence.toNat ≤ t.nextSequence.toNat)
    (hbad : t.badCount = (allPages.filter fun g => (t.page g).isBad).length) : t.TablesFit :=
  ⟨h.recordsBacked hs.backed hr, h.censusExact hs.census he hn, hbad⟩

/-- The tables fit still where pages, records, Census and counts stand. -/
theorem State.TablesFit.of_eq (hs : s.TablesFit) (hp : t.pages = s.pages) (hr : t.records = s.records)
    (he : t.census = s.census) (hn : s.nextSequence.toNat ≤ t.nextSequence.toNat) (hbad : t.badCount = s.badCount) :
    t.TablesFit := by
  have page (g : PageNo) : t.page g = s.page g := by rw [State.page, hp]; rfl
  exact hs.of_sameKept (fun g => .inl (page g)) hr he hn (by simp only [page, hbad, hs.bad])

end

/-- The pages that satisfy a predicate of their entries, when one page more satisfies it. -/
theorem length_filter_pages_of_gain {p q : PageNo → Bool} {g : PageNo} (hp : p g = false) (hq : q g = true)
    (h : ∀ x, x ≠ g → q x = p x) : (allPages.filter q).length = (allPages.filter p).length + 1 := by
  rw [← List.countP_eq_length_filter, ← List.countP_eq_length_filter]
  have hg : g ∈ allPages := List.mem_finRange g
  have nodup : allPages.Nodup := List.nodup_finRange 320
  obtain ⟨before, after, split⟩ := List.append_of_mem hg
  rw [split] at nodup ⊢
  have notIn := List.nodup_middle.mp nodup
  have same {l : List PageNo} (hl : ∀ x ∈ l, x ∈ before ++ after) : l.countP q = l.countP p :=
    List.countP_congr fun x hx => by
      rw [h x fun e => (List.nodup_cons.mp notIn).1 (e ▸ hl x hx)]
  simp only [List.countP_append, List.countP_cons, hp, hq]
  rw [same fun x hx => List.mem_append_left _ hx, same fun x hx => List.mem_append_right _ hx]
  simp
  omega

/-- The bad count after one more page is BAD (R27, R28). -/
theorem State.badPages_of_retire {s t : State} {g : PageNo} (hs : (s.page g).isBad = false) (ht : t.page g = .bad)
    (h : ∀ x, x ≠ g → t.page x = s.page x) :
    (allPages.filter fun g => (t.page g).isBad).length = (allPages.filter fun g => (s.page g).isBad).length + 1 :=
  length_filter_pages_of_gain hs (by simp [ht, PageEntry.isBad]) fun x hx => by rw [h x hx]

/-- The bad count where no page becomes BAD and none stops to be. -/
theorem State.badPages_of_same {s t : State} (h : ∀ g, (t.page g).isBad = (s.page g).isBad) :
    (allPages.filter fun g => (t.page g).isBad) = allPages.filter fun g => (s.page g).isBad := by
  simp only [h]

/-! ## A run whose positions are all verified -/

/-- What a run's images carry, at each position (R55, R75). -/
def ImageRun.ImagesFit (run : ImageRun) (relocated : Bool) : Prop :=
  ∀ (k : Nat) i, run.images[k]? = some i →
    i.check = Config.pageCheck i.header i.payload ∧ i.header.record.isSome = true ∧ i.header.version.isSome = true
      ∧ i.header.sequence = run.sequence ∧ i.header.position = k + 1 ∧ i.header.count = run.images.length
      ∧ i.header.relocated = relocated ∧ i.header.kind ≠ .epoch

/-- Every position of the run is verified, on the pages in their order, and no other page is PENDING (R30, R59, R77). -/
structure State.RunVerified (s : State) (run : ImageRun) (pages : List PageNo) (relocated : Bool) : Prop where
  issued : run.sequence.toNat < s.nextSequence.toNat
  above : ∀ e ∈ s.census, e.sequence.toNat < run.sequence.toNat
  few : run.images.length ≤ 8
  records : (run.images.map fun i => i.header.record).Nodup
  images : run.ImagesFit relocated
  length : run.images.length = pages.length
  page : ∀ (k : Nat) g, pages[k]? = some g → ∃ i, run.images[k]? = some i ∧ s.page g = .pending (some i.header)
  pending : s.PendingOnly fun g => g ∈ pages

section
variable {s : State} {run : ImageRun} {pages : List PageNo} {relocated : Bool}

theorem State.RunVerified.mem_zip (h : s.RunVerified run pages relocated) {x : PageImage × PageNo}
    (hx : x ∈ run.images.zip pages) :
    ∃ k : Nat, run.images[k]? = some x.1 ∧ pages[k]? = some x.2 ∧ s.page x.2 = .pending (some x.1.header) := by
  obtain ⟨k, hk⟩ := List.mem_iff_getElem?.mp hx
  obtain ⟨hi, hg⟩ := List.getElem?_zip_eq_some.mp hk
  obtain ⟨i, hi', hp⟩ := h.page k x.2 hg
  rw [hi] at hi'
  cases hi'
  exact ⟨k, hi, hg, hp⟩

/-- Two positions have two pages: their headers differ (R57). -/
theorem State.RunVerified.pages_nodup (h : s.RunVerified run pages relocated) : pages.Nodup := by
  rw [List.nodup_iff_getElem?_ne_getElem?]
  intro j k hjk hk hg
  have hsome : pages[j]? = some pages[j] := List.getElem?_eq_getElem (by omega)
  obtain ⟨a, ha, hpa⟩ := h.page j _ hsome
  obtain ⟨b, hb, hpb⟩ := h.page k _ (hg ▸ hsome)
  rw [hpa] at hpb
  have same : a.header = b.header := by simpa using hpb
  have hposa := (h.images j a ha).2.2.2.2.1
  have hposb := (h.images k b hb).2.2.2.2.1
  rw [same] at hposa
  omega

theorem State.RunVerified.mayTakeEffect (h : s.RunVerified run pages relocated) :
    s.MayTakeEffect (run.images.zip pages) where
  named x hx := by
    obtain ⟨k, hi, -⟩ := h.mem_zip hx
    exact (h.images k _ hi).2.1
  records := by
    have := h.records
    rwa [← List.map_fst_zip (le_of_eq h.length), List.map_map] at this
  pages := by
    rw [List.map_snd_zip (le_of_eq h.length.symm)]
    exact h.pages_nodup
  fresh x hx := by
    obtain ⟨k, -, -, hp⟩ := h.mem_zip hx
    rw [hp]
    rfl

/-- The page of a position is found with the image of that position. -/
theorem State.RunVerified.find?_page (h : s.RunVerified run pages relocated) {k : Nat} {i : PageImage} {g : PageNo}
    (hi : run.images[k]? = some i) (hg : pages[k]? = some g) :
    (run.images.zip pages).find? (fun x => x.2 == g) = some (i, g) := by
  have mem : (i, g) ∈ run.images.zip pages :=
    List.mem_iff_getElem?.mpr ⟨k, List.getElem?_zip_eq_some.mpr ⟨hi, hg⟩⟩
  cases hf : (run.images.zip pages).find? fun x => x.2 == g with
  | none => exact absurd (List.find?_eq_none.mp hf _ mem) (by simp)
  | some x =>
    have hx : x.2 = (i, g).2 := by simpa using List.find?_some hf
    exact congrArg some (List.inj_on_of_nodup_map h.mayTakeEffect.pages (List.mem_of_find?_eq_some hf) mem hx)

/-- The record of a position is found with the image of that position. -/
theorem State.RunVerified.find?_record (h : s.RunVerified run pages relocated) {k : Nat} {i : PageImage} {g : PageNo}
    {r : RecordNo} (hi : run.images[k]? = some i) (hg : pages[k]? = some g) (hr : i.header.record = some r) :
    (run.images.zip pages).find? (fun x => x.1.header.record == some r) = some (i, g) := by
  have mem : (i, g) ∈ run.images.zip pages :=
    List.mem_iff_getElem?.mpr ⟨k, List.getElem?_zip_eq_some.mpr ⟨hi, hg⟩⟩
  cases hf : (run.images.zip pages).find? fun x => x.1.header.record == some r with
  | none => exact absurd (List.find?_eq_none.mp hf _ mem) (by simp [hr])
  | some x =>
    have hx : x.1.header.record = (i, g).1.header.record := by
      rw [hr]
      simpa using List.find?_some hf
    exact congrArg some (List.inj_on_of_nodup_map h.mayTakeEffect.records (List.mem_of_find?_eq_some hf) mem hx)

end

/-- An entry whose sequence lies above all others goes to the end of the Census (R65). -/
theorem insertCensus_of_above {e : CensusEntry} {l : List CensusEntry}
    (h : ∀ x ∈ l, x.sequence.toNat < e.sequence.toNat) : insertCensus e l = l ++ [e] := by
  induction l with
  | nil => rfl
  | cons x rest ih =>
    have hx := h x List.mem_cons_self
    rw [insertCensus, if_neg (by omega), ih fun y hy => h y (List.mem_cons_of_mem _ hy)]
    rfl

end Sys2Proof.Machine
end

section
/-!
SUPPORT. The completion of a run (R59, R66, R77): the tables after it, and that they fit.
-/

namespace Sys2Proof.Machine

/-! ## Entries that images give -/

/-- An image that a relocation programmed carries the record's own version and kind (R75). -/
def RecordEntry.CarriedBy (e : RecordEntry) (i : PageImage) : Prop :=
  i.header.relocated = true →
    i.header.version = some e.version ∧ (i.header.kind = .tombstone ↔ ∃ v g q, e = .deleted v g q)
      ∧ e.backing.isSome = true

/-- The entry after an image took effect names the image's page, sequence and version, and is DELETED for a TOMBSTONE (R5,
R6, R9). -/
theorem RecordEntry.switched_backed {e : RecordEntry} {i : PageImage} (g : PageNo) (hc : e.CarriedBy i)
    (hv : i.header.version.isSome = true) (hk : i.header.kind ≠ .epoch) :
    (e.switched i g).backing = some (g, i.header.sequence) ∧ i.header.version = some (e.switched i g).version
      ∧ (i.header.kind = .tombstone ↔ e.switched i g = .deleted (e.switched i g).version g i.header.sequence) := by
  obtain ⟨v, hv⟩ := Option.isSome_iff_exists.mp hv
  unfold RecordEntry.switched
  cases hr : i.header.relocated with
  | true =>
    obtain ⟨version, kind, backed⟩ := hc hr
    cases e with
    | unwritten => cases backed
    | present v d g' q => exact ⟨rfl, version, by simp [kind, RecordEntry.moveTo]⟩
    | deleted v g' q => exact ⟨rfl, version, by simp [kind, RecordEntry.moveTo, RecordEntry.version]⟩
  | false =>
    simp only [Bool.false_eq_true, if_false, PageImage.entry, hv, Option.getD_some]
    cases hkind : i.header.kind with
    | data => exact ⟨rfl, rfl, by simp⟩
    | layout => exact ⟨rfl, rfl, by simp⟩
    | tombstone => exact ⟨rfl, rfl, by simp [RecordEntry.version]⟩
    | epoch => exact absurd hkind hk

/-! ## Old pages after a completion -/

section
variable {s : State} (hc : s.CensusExact) {gone : PageNo → Bool} {g : PageNo}
include hc

/-- A LIVE page that is not superseded stays LIVE. -/
theorem State.pageWithout_of_live {h : Header} (hg : s.page g = .live h) (hn : gone g = false) :
    s.pageWithout gone g = .live h := by
  obtain ⟨e, he, -, hx⟩ := hc.exists_of_live hg
  have alive : (e.without gone).live ≠ 0 := fun dead =>
    absurd ((CensusEntry.without_live_eq_zero_iff e gone).mp dead _ hx rfl) (by simp [hn])
  rw [show g = (⟨g, true⟩ : CensusPage).page from rfl, State.pageWithout_of_mem hc he hx, if_neg alive]
  simp [hn, hg]

/-- What becomes of an old page (R67): it stays; or, superseded, it becomes RETAINED with its header; or it was stored, and
is STALE with its whole transaction. -/
theorem State.pageWithout_cases (hgone : ∀ g, gone g = true → (s.page g).isLive = true) (g : PageNo) :
    (gone g = false ∧ s.pageWithout gone g = s.page g)
      ∨ (∃ h, gone g = true ∧ s.page g = .live h ∧ s.pageWithout gone g = .retained h)
      ∨ (s.page g).isKept = true ∧ s.pageWithout gone g = .stale := by
  cases kept : (s.page g).isKept with
  | false =>
    have hn : gone g = false := by
      by_contra hn
      have := hgone g (by simpa using hn)
      simp [PageEntry.isKept, this] at kept
    exact .inl ⟨hn, State.pageWithout_of_not_kept hc kept hn⟩
  | true =>
    obtain ⟨e, he, x, hx, rfl⟩ := hc.exists_of_kept kept
    rw [State.pageWithout_of_mem hc he hx]
    by_cases dead : (e.without gone).live = 0
    · exact .inr (.inr ⟨rfl, if_pos dead⟩)
    · rw [if_neg dead]
      cases hn : gone x.page with
      | false => exact .inl ⟨rfl, by simp⟩
      | true =>
        have live := hgone _ hn
        cases hp : s.page x.page with
        | live h => exact .inr (.inl ⟨h, rfl, rfl, rfl⟩)
        | clean => simp [hp, PageEntry.isLive] at live
        | pending _ => simp [hp, PageEntry.isLive] at live
        | retained _ => simp [hp, PageEntry.isLive] at live
        | stale => simp [hp, PageEntry.isLive] at live
        | bad => simp [hp, PageEntry.isLive] at live

end

theorem State.isLive_of_gone {s : State} (hb : s.RecordsBacked) (l : List (PageImage × PageNo)) (g : PageNo)
    (h : s.gone l g = true) : (s.page g).isLive = true := by
  obtain ⟨x, -, r, q, -, hq⟩ := (s.gone_iff l g).mp h
  obtain ⟨k, hk, -⟩ := hb.1 r g q hq
  rw [hk]
  rfl

/-! ## The completion of a run -/

/-- The tables once a run's images took effect and the Census has its entry (R59, R66, R77). -/
def State.completed (s : State) (run : ImageRun) (pages : List PageNo) : State :=
  (s.takeEffectAll run.images pages).createCensus run.sequence pages

/-- The Census entry of a completed run: every page LIVE (R66). -/
def completedEntry (run : ImageRun) (pages : List PageNo) : CensusEntry := ⟨run.sequence, pages.map fun g => ⟨g, true⟩⟩

section
variable {s : State} {run : ImageRun} {pages : List PageNo} {relocated : Bool}

section
variable (hb : s.RecordsBacked) (hc : s.CensusExact) (h : s.RunVerified run pages relocated)
include hb hc h

/-- A page of the run is LIVE with the header of its image (R59). -/
theorem State.completed_page_of_run {k : Nat} {i : PageImage} {g : PageNo} (hi : run.images[k]? = some i)
    (hg : pages[k]? = some g) : (s.completed run pages).page g = .live i.header := by
  have := (State.effected_takeEffectAll hb hc h.mayTakeEffect).page g
  rw [h.find?_page hi hg] at this
  exact this

/-- Any other page goes by the pin rule (R67). -/
theorem State.completed_page_of_other {g : PageNo} (hg : g ∉ pages) :
    (s.completed run pages).page g = s.pageWithout (s.gone (run.images.zip pages)) g := by
  have := (State.effected_takeEffectAll hb hc h.mayTakeEffect).page g
  have none : (run.images.zip pages).find? (fun x => x.2 == g) = none := by
    rw [List.find?_eq_none]
    intro x hx hxg
    exact hg (eq_of_beq hxg ▸ List.of_mem_zip hx |>.2)
  rw [none] at this
  exact this

theorem State.completed_record_of_named {k : Nat} {i : PageImage} {g : PageNo} {r : RecordNo}
    (hi : run.images[k]? = some i) (hg : pages[k]? = some g) (hr : i.header.record = some r) :
    (s.completed run pages).record r = (s.record r).switched i g := by
  have := (State.effected_takeEffectAll hb hc h.mayTakeEffect).record r
  rw [h.find?_record hi hg hr] at this
  exact this

theorem State.completed_census :
    (s.completed run pages).census = s.censusWithout (s.gone (run.images.zip pages)) ++ [completedEntry run pages] := by
  have := (State.effected_takeEffectAll hb hc h.mayTakeEffect).census
  unfold State.completed State.createCensus
  simp only
  rw [this]
  refine insertCensus_of_above fun e he => ?_
  obtain ⟨f, hf, -, rfl⟩ := (s.mem_censusWithout _ e).mp he
  exact h.above f hf

end

theorem State.completed_record_of_unnamed {r : RecordNo} (hr : ∀ i ∈ run.images, i.header.record ≠ some r) :
    (s.completed run pages).record r = s.record r := s.record_takeEffectAll_of_unnamed pages hr

/-- A position with its image, page and record. -/
theorem State.RunVerified.exists_page (h : s.RunVerified run pages relocated) {i : PageImage} (hi : i ∈ run.images) :
    ∃ (k : Nat) (g : PageNo), run.images[k]? = some i ∧ pages[k]? = some g := by
  obtain ⟨k, hk⟩ := List.mem_iff_getElem?.mp hi
  have : k < pages.length := h.length ▸ (List.getElem?_eq_some_iff.mp hk).1
  exact ⟨k, _, hk, List.getElem?_eq_getElem this⟩

theorem State.RunVerified.exists_image (h : s.RunVerified run pages relocated) {g : PageNo} (hg : g ∈ pages) :
    ∃ (k : Nat) (i : PageImage), run.images[k]? = some i ∧ pages[k]? = some g
      ∧ s.page g = .pending (some i.header) := by
  obtain ⟨k, hk⟩ := List.mem_iff_getElem?.mp hg
  obtain ⟨i, hi, hp⟩ := h.page k g hk
  exact ⟨k, i, hi, hk, hp⟩

/-- No page that was stored is one of the run's own. -/
theorem State.RunVerified.not_mem_of_kept (h : s.RunVerified run pages relocated) {g : PageNo} (hg : (s.page g).isKept = true) : g ∉ pages := by
  intro hm
  obtain ⟨k, i, -, -, hp⟩ := h.exists_image hm
  rw [hp] at hg
  cases hg

variable (hb : s.RecordsBacked) (hc : s.CensusExact) (h : s.RunVerified run pages relocated)
  (hcarry : ∀ i ∈ run.images, ∀ r, i.header.record = some r → (s.record r).CarriedBy i)
include hb hc h

/-- A record is switched by the run, or it stands and its page stays LIVE (R5, R8). -/
theorem State.completed_record_cases (r : RecordNo) :
    (∃ (k : Nat) (i : PageImage) (g : PageNo), run.images[k]? = some i ∧ pages[k]? = some g ∧ i.header.record = some r
        ∧ (s.completed run pages).record r = (s.record r).switched i g)
      ∨ ((∀ i ∈ run.images, i.header.record ≠ some r) ∧ (s.completed run pages).record r = s.record r) := by
  by_cases named : ∃ i ∈ run.images, i.header.record = some r
  · obtain ⟨i, hi, hr⟩ := named
    obtain ⟨k, g, hk, hg⟩ := h.exists_page hi
    exact .inl ⟨k, i, g, hk, hg, hr, State.completed_record_of_named hb hc h hk hg hr⟩
  · have unnamed : ∀ i ∈ run.images, i.header.record ≠ some r := fun i hi hr => named ⟨i, hi, hr⟩
    exact .inr ⟨unnamed, State.completed_record_of_unnamed unnamed⟩

include hcarry in
theorem State.completed_recordsBacked : (s.completed run pages).RecordsBacked := by
  refine ⟨fun r g q hq => ?_, fun g k hk => ?_⟩
  · rcases State.completed_record_cases hb hc h r with ⟨k, i, g', hi, hg', hr, hs⟩ | ⟨unnamed, hs⟩
    · obtain ⟨-, -, version, sequence, -, -, -, kind⟩ := h.images k i hi
      obtain ⟨backing, hv, deleted⟩ :=
        RecordEntry.switched_backed g' (hcarry i (List.mem_of_getElem? hi) r hr) version kind
      rw [hs, backing] at hq
      cases hq
      exact ⟨i.header, State.completed_page_of_run hb hc h hi hg', hr, hs ▸ hv, rfl, kind, hs ▸ deleted⟩
    · rw [hs] at hq ⊢
      obtain ⟨d, hd, hdr, rest⟩ := hb.1 r g q hq
      have notGone : s.gone (run.images.zip pages) g = false := by
        rw [Bool.eq_false_iff, Ne, State.gone_iff]
        rintro ⟨x, hx, r', q', hr', hq'⟩
        obtain ⟨b, hb', hbr, -⟩ := hb.1 r' g q' hq'
        rw [hd] at hb'
        cases hb'
        exact unnamed x.1 (List.of_mem_zip hx).1 (hr'.trans (hbr.symm.trans hdr))
      refine ⟨d, ?_, hdr, rest⟩
      rw [State.completed_page_of_other hb hc h (h.not_mem_of_kept (by rw [hd]; rfl))]
      exact State.pageWithout_of_live hc hd notGone
  · by_cases hm : g ∈ pages
    · obtain ⟨j, i, hi, hg, -⟩ := h.exists_image hm
      rw [State.completed_page_of_run hb hc h hi hg] at hk
      cases hk
      obtain ⟨-, named, version, -, -, -, -, kind⟩ := h.images j i hi
      obtain ⟨r, hr⟩ := Option.isSome_iff_exists.mp named
      refine ⟨r, hr, ?_⟩
      rw [State.completed_record_of_named hb hc h hi hg hr]
      exact (RecordEntry.switched_backed g (hcarry i (List.mem_of_getElem? hi) r hr) version kind).1
    · rw [State.completed_page_of_other hb hc h hm] at hk
      rcases State.pageWithout_cases hc (State.isLive_of_gone hb _) g with ⟨notGone, same⟩ | ⟨_, -, -, e⟩ | ⟨-, e⟩
      · rw [same] at hk
        obtain ⟨r, hr, hq⟩ := hb.2 g k hk
        refine ⟨r, hr, ?_⟩
        rcases State.completed_record_cases hb hc h r with ⟨j, i, g', hi, hg', hir, -⟩ | ⟨-, hs⟩
        · have : s.gone (run.images.zip pages) g = true :=
            (s.gone_iff _ g).mpr ⟨(i, g'), List.mem_iff_getElem?.mpr ⟨j, List.getElem?_zip_eq_some.mpr ⟨hi, hg'⟩⟩,
              r, k.sequence, hir, hq⟩
          rw [notGone] at this
          cases this
        · rw [hs, hq]
      · rw [e] at hk
        cases hk
      · rw [e] at hk
        cases hk

theorem State.completed_censusExact (hne : pages ≠ []) : (s.completed run pages).CensusExact := by
  have census := State.completed_census hb hc h
  have next : (s.completed run pages).nextSequence = s.nextSequence := by
    obtain ⟨_, _, _, ht⟩ := s.takeEffectAll_changes run.images pages
    unfold State.completed
    rw [ht]
    rfl
  refine ⟨?_, fun e he => ?_, fun g hg => ?_⟩
  · rw [census, List.map_append, List.pairwise_append]
    refine ⟨?_, List.pairwise_singleton _ _, fun x hx y hy => ?_⟩
    · have sub : ((s.censusWithout (s.gone (run.images.zip pages))).map CensusEntry.sequence).Sublist
          (s.census.map CensusEntry.sequence) := by
        rw [State.censusWithout_eq_filter_map]
        refine (List.filter_sublist.map _).trans ?_
        rw [List.map_map]
        exact List.Sublist.refl _
      exact hc.1.sublist sub
    · obtain ⟨e, he, rfl⟩ := List.mem_map.mp hx
      obtain ⟨f, hf, -, rfl⟩ := (s.mem_censusWithout _ e).mp he
      cases List.mem_singleton.mp hy
      exact h.above f hf
  · rw [census, List.mem_append, List.mem_singleton] at he
    rcases he with he | rfl
    · obtain ⟨f, hf, alive, rfl⟩ := (s.mem_censusWithout _ e).mp he
      obtain ⟨below, -, few, positions⟩ := hc.2.1 f hf
      have length : (f.without (s.gone (run.images.zip pages))).pages.length = f.pages.length := by
        simp [CensusEntry.without]
      refine ⟨next ▸ below, alive, length ▸ few, fun k x hx => ?_⟩
      simp only [CensusEntry.without, List.getElem?_map, Option.map_eq_some_iff] at hx
      obtain ⟨y, hy, rfl⟩ := hx
      obtain ⟨d, hd, hds, hdp, hdc⟩ := positions k y hy
      refine ⟨d, ?_, hds, hdp, length ▸ hdc⟩
      have mem := List.mem_of_getElem? hy
      have kept := hc.kept_of_mem hf mem
      rw [State.completed_page_of_other hb hc h (h.not_mem_of_kept kept),
        State.pageWithout_of_mem hc hf mem, if_neg (by omega), hd]
      cases hl : y.live with
      | true => cases s.gone (run.images.zip pages) y.page <;> rfl
      | false => cases s.gone (run.images.zip pages) y.page <;> rfl
    · refine ⟨next ▸ h.issued, ?_, ?_, fun k x hx => ?_⟩
      · rw [CensusEntry.live_pos_iff]
        obtain ⟨g, rest, rfl⟩ := List.exists_cons_of_ne_nil hne
        exact ⟨⟨g, true⟩, by simp [completedEntry], rfl⟩
      · simpa [completedEntry, ← h.length] using h.few
      · simp only [completedEntry, List.getElem?_map, Option.map_eq_some_iff] at hx
        obtain ⟨g, hg, rfl⟩ := hx
        obtain ⟨i, hi, -⟩ := h.page k g hg
        obtain ⟨-, -, -, sequence, position, count, -, -⟩ := h.images k i hi
        exact ⟨i.header, State.completed_page_of_run hb hc h hi hg, sequence, position, by
          simpa [completedEntry, ← h.length] using count⟩
  · rw [census]
    by_cases hm : g ∈ pages
    · exact ⟨completedEntry run pages, by simp, ⟨g, true⟩, by simpa [completedEntry] using hm, rfl⟩
    · rw [← PageEntry.isKept_iff, State.completed_page_of_other hb hc h hm] at hg
      cases kept : (s.page g).isKept with
      | false =>
        rw [State.pageWithout_of_not_kept hc kept (State.gone_of_not_kept hb _ kept), kept] at hg
        cases hg
      | true =>
        obtain ⟨e, he, x, hx, rfl⟩ := hc.exists_of_kept kept
        rw [State.pageWithout_of_mem hc he hx] at hg
        by_cases dead : (e.without (s.gone (run.images.zip pages))).live = 0
        · rw [if_pos dead] at hg
          cases hg
        · refine ⟨e.without (s.gone (run.images.zip pages)), List.mem_append_left _ ?_,
            ⟨x.page, x.live && !s.gone (run.images.zip pages) x.page⟩, ?_, rfl⟩
          · exact (s.mem_censusWithout _ _).mpr ⟨e, he, Nat.one_le_iff_ne_zero.mpr dead, rfl⟩
          · exact List.mem_map.mpr ⟨x, hx, rfl⟩

theorem State.completed_isBad (g : PageNo) : ((s.completed run pages).page g).isBad = (s.page g).isBad := by
  by_cases hm : g ∈ pages
  · obtain ⟨k, i, hi, hg, hp⟩ := h.exists_image hm
    rw [State.completed_page_of_run hb hc h hi hg, hp]
    rfl
  · rw [State.completed_page_of_other hb hc h hm]
    rcases State.pageWithout_cases hc (State.isLive_of_gone hb _) g with ⟨-, same⟩ | ⟨d, -, hd, e⟩ | ⟨kept, e⟩
    · rw [same]
    · rw [e, hd]
      rfl
    · rw [e]
      cases hp : s.page g <;> simp [hp, PageEntry.isKept, PageEntry.isLive, PageEntry.isRetained] at kept <;> rfl

/-- After the completion no page is PENDING (R30). -/
theorem State.completed_pending : (s.completed run pages).PendingOnly fun _ => False := by
  intro g hg
  by_cases hm : g ∈ pages
  · obtain ⟨k, i, hi, hk, -⟩ := h.exists_image hm
    rw [State.completed_page_of_run hb hc h hi hk] at hg
    cases hg
  · rw [State.completed_page_of_other hb hc h hm] at hg
    rcases State.pageWithout_cases hc (State.isLive_of_gone hb _) g with ⟨-, same⟩ | ⟨d, -, -, e⟩ | ⟨-, e⟩
    · exact hm (h.pending g (same ▸ hg))
    · rw [e] at hg
      cases hg
    · rw [e] at hg
      cases hg

end

/-- The tables fit after the completion of a run (R59, R66, R77). -/
theorem State.TablesFit.completed {s : State} {run : ImageRun} {pages : List PageNo} {relocated : Bool}
    (hs : s.TablesFit) (h : s.RunVerified run pages relocated)
    (hcarry : ∀ i ∈ run.images, ∀ r, i.header.record = some r → (s.record r).CarriedBy i) (hne : pages ≠ []) :
    (s.completed run pages).TablesFit where
  backed := State.completed_recordsBacked hs.backed hs.census h hcarry
  census := State.completed_censusExact hs.backed hs.census h hne
  bad := by
    have count : (s.completed run pages).badCount = s.badCount := by
      obtain ⟨_, _, _, ht⟩ := s.takeEffectAll_changes run.images pages
      unfold State.completed
      rw [ht]
      rfl
    rw [count, hs.bad, State.badPages_of_same (State.completed_isBad hs.backed hs.census h)]

/-! ## The completion in the terms of the statements -/

section
variable {s : State} {run : ImageRun} {pages : List PageNo} {relocated : Bool}
  (hb : s.RecordsBacked) (hc : s.CensusExact) (h : s.RunVerified run pages relocated)
include hb hc h

theorem State.completed_census_eq : (s.completed run pages).census = s.censusAfter run pages := by
  have gone : s.supersedes run.images = s.gone (run.images.zip pages) :=
    funext (s.supersedes_eq_gone run.images pages h.length)
  rw [State.completed_census hb hc h, State.censusWithout_eq_filter_map, ← gone]
  rfl

theorem State.completed_pages_eq : (s.completed run pages).pages = s.pagesAfter run pages := by
  have gone : s.supersedes run.images = s.gone (run.images.zip pages) :=
    funext (s.supersedes_eq_gone run.images pages h.length)
  refine Table.ext_get fun g => ?_
  have effect := (State.effected_takeEffectAll hb hc h.mayTakeEffect).page g
  have same : (s.completed run pages).pages.get g = (s.takeEffectAll run.images pages).page g := rfl
  rw [same, effect, State.pagesAfter, Table.get_build, gone]
  cases (run.images.zip pages).find? fun x => x.2 == g with
  | some x => rfl
  | none =>
    simp only [State.pageWithout]
    refine congrArg _ ?_
    cases s.gone (run.images.zip pages) g <;> cases s.page g <;> rfl

end

end Sys2Proof.Machine
end

section
/-!
SUPPORT. The pass of a run's last program (R26, R59, R77): the run as it stands then, and the commit points of O46, O47 and
O48.
-/

namespace Sys2Proof.Machine

/-! ## A program that passes -/

section
variable {s : State} {run : ImageRun} {relocated : Bool} {g : PageNo} {i : PageImage}

@[simp] theorem State.page_programPassed (s : State) (g : PageNo) (i : PageImage) (x : PageNo) :
    (s.programPassed g i).page x = if x = g then .pending (some i.header) else s.page x :=
  State.page_setPage _ g x _

/-- The page under program is PENDING without a header, and its image is the next of the run (R24, R56). -/
theorem State.RunFits.program (h : s.RunFits run relocated) (ho : s.op = some (.program g i)) :
    s.page g = .pending none ∧ run.images[run.verified.length]? = some i := by
  obtain ⟨-, -, -, -, -, -, op, -⟩ := h
  rcases op with op | ⟨g', i', op, page, next⟩
  · rw [op] at ho
    cases ho
  · rw [op] at ho
    cases ho
    exact ⟨page, next⟩

/-- The verified pages are pages whose header is written: not the one under program. -/
theorem State.RunFits.not_mem_verified (h : s.RunFits run relocated) (hp : s.page g = .pending none) :
    g ∉ run.verified := by
  intro hm
  obtain ⟨k, hk⟩ := List.mem_iff_getElem?.mp hm
  obtain ⟨-, -, -, -, -, verified, -, -⟩ := h
  obtain ⟨j, -, hj⟩ := verified k g hk
  rw [hp] at hj
  cases hj

/-- A passed program verifies the next position of the run (R26, R56). -/
theorem State.RunFits.programPassed (h : s.RunFits run relocated) (ho : s.op = some (.program g i)) :
    (s.programPassed g i).RunFits (run.verify g) relocated := by
  obtain ⟨page, next⟩ := h.program ho
  have fresh := h.not_mem_verified page
  obtain ⟨issued, above, few, records, images, verified, -, pending⟩ := h
  refine ⟨issued, above, few, records, images, fun k x hx => ?_, .inl rfl, fun x hx => .inl ?_⟩
  · simp only [ImageRun.verify, List.getElem?_append] at hx ⊢
    split at hx
    · obtain ⟨j, hj, hp⟩ := verified k x hx
      have : x ≠ g := fun e => fresh (e ▸ List.mem_of_getElem? hx)
      exact ⟨j, hj, by rw [State.page_programPassed, if_neg this, hp]⟩
    · next hk =>
      rw [List.getElem?_singleton, Option.ite_none_right_eq_some, Option.some.injEq] at hx
      obtain ⟨hk0, rfl⟩ := hx
      have : k = run.verified.length := by omega
      subst this
      exact ⟨i, next, by simp⟩
  · simp only [ImageRun.verify, List.mem_append, List.mem_singleton]
    rw [State.page_programPassed] at hx
    by_cases e : x = g
    · exact .inr e
    · rw [if_neg e] at hx
      rcases pending x hx with hv | ⟨j, hj⟩
      · exact .inl hv
      · rw [ho] at hj
        cases hj
        exact absurd rfl e

/-- A run with nothing left to program has every position verified. -/
theorem State.RunFits.runVerified (h : s.RunFits run relocated) (ho : s.op = none)
    (hl : run.images.length ≤ run.verified.length) : s.RunVerified run run.verified relocated := by
  obtain ⟨issued, above, few, records, images, verified, -, pending⟩ := h
  refine ⟨issued, above, few, records, images, le_antisymm hl ?_, verified, fun x hx => ?_⟩
  · by_contra hlt
    obtain ⟨j, hj, -⟩ := verified run.images.length _ (List.getElem?_eq_getElem (by omega))
    exact absurd (List.getElem?_eq_some_iff.mp hj).1 (lt_irrefl _)
  · rcases pending x hx with hv | ⟨j, hj⟩
    · exact hv
    · rw [ho] at hj
      cases hj

/-- A passed program changes no stored page, record or count (R26). -/
theorem State.TablesFit.programPassed (hs : s.TablesFit) (hp : (s.page g).isPending = true) :
    (s.programPassed g i).TablesFit := by
  have old : (s.page g).isKept = false ∧ (s.page g).isBad = false := by
    cases h : s.page g with
    | pending _ => exact ⟨rfl, rfl⟩
    | clean => simp [h, PageEntry.isPending] at hp
    | live _ => simp [h, PageEntry.isPending] at hp
    | retained _ => simp [h, PageEntry.isPending] at hp
    | stale => simp [h, PageEntry.isPending] at hp
    | bad => simp [h, PageEntry.isPending] at hp
  refine hs.of_sameKept (fun x => ?_) rfl rfl le_rfl ?_
  · rw [State.page_programPassed]
    by_cases e : x = g
    · rw [if_pos e, e]
      exact .inr ⟨old.1, rfl⟩
    · rw [if_neg e]
      exact .inl rfl
  · rw [State.badPages_of_same fun x => ?_]
    · exact hs.bad
    · rw [State.page_programPassed]
      by_cases e : x = g
      · rw [if_pos e, e, old.2]
        rfl
      · rw [if_neg e]

/-- The pass of the last position: every position is verified on the pages then (R59, R77). -/
theorem State.RunFits.lastPassed (h : s.RunFits run relocated) (ho : s.op = some (.program g i))
    (hl : run.images.length = run.verified.length + 1) :
    (s.programPassed g i).RunVerified (run.verify g) (run.verified ++ [g]) relocated := by
  refine (h.programPassed ho).runVerified rfl ?_
  simp [ImageRun.verify, hl]

/-- The Directory after a run's completion does not rest on what its own pages were before. -/
theorem State.pagesAfter_programPassed (hl : run.images.length = run.verified.length + 1) :
    (s.programPassed g i).pagesAfter (run.verify g) (run.verified ++ [g]) = s.pagesAfter run (run.verified ++ [g]) := by
  refine Table.ext_get fun x => ?_
  unfold State.pagesAfter
  rw [Table.get_build, Table.get_build]
  have supersedes : (s.programPassed g i).supersedes run.images = s.supersedes run.images := rfl
  have images : (run.verify g).images = run.images := rfl
  rw [images, supersedes]
  cases hf : (run.images.zip (run.verified ++ [g])).find? fun y => y.2 == x with
  | some y => rfl
  | none =>
    have other : x ≠ g := by
      rintro rfl
      have hk : run.verified.length < run.images.length := by omega
      have mem : (run.images[run.verified.length], x) ∈ run.images.zip (run.verified ++ [x]) :=
        List.mem_iff_getElem?.mpr ⟨run.verified.length, List.getElem?_zip_eq_some.mpr
          ⟨List.getElem?_eq_getElem hk, by simp⟩⟩
      exact absurd (List.find?_eq_none.mp hf _ mem) (by simp)
    have page : (s.programPassed g i).page x = s.page x := by rw [State.page_programPassed, if_neg other]
    simp only [page]
    rfl

end

/-! ## The end of the event -/

/-- The end of a job is the settling of the state in which the engine is free (R32). -/
theorem State.endJob_eq_settled (s : State) : s.endJob = ({ s with job := .idle, op := none } : State).settled := rfl

/-- The leases after the end of a freeze (R113). -/
theorem State.endFreeze_eq (s : State) (p : Port) : s.endFreeze p = { s with leases := s.leasesThawed p } := by
  have : (s.endFreeze p).leases = s.leasesThawed p := by
    refine Table.ext_get fun w => ?_
    have := s.lease_endFreeze p w
    rw [State.lease] at this
    rw [this, State.leasesThawed, Table.get_build]
    cases (s.lease w).held with
    | none => rfl
    | some h =>
      by_cases hp : h.port = p <;> cases hf : h.frozen <;> simp [hp]
  rw [← this]
  rfl

/-- A completed run, field by field (R59, R66, R67, R77). -/
theorem State.completed_eq {s : State} {run : ImageRun} {pages : List PageNo} {relocated : Bool} (hs : s.TablesFit)
    (h : s.RunVerified run pages relocated) :
    s.completed run pages = { s with
      pages := s.pagesAfter run pages, census := s.censusAfter run pages
      records := (s.takeEffectAll run.images pages).records } := by
  have pagesEq := State.completed_pages_eq hs.backed hs.census h
  have censusEq := State.completed_census_eq hs.backed hs.census h
  rw [← pagesEq, ← censusEq]
  obtain ⟨_, _, _, ht⟩ := s.takeEffectAll_changes run.images pages
  unfold State.completed
  rw [ht]
  rfl

/-- A fold over the ports that changes each port on its own (R60). -/
theorem port_foldl {f : State → Port → State} {change : Port → PortState → PortState} {windows : Layout}
    (hf : ∀ (t : State) o, t.windows = windows →
      (f t o).windows = windows ∧ ∀ q, (f t o).port q = if q = o then change o (t.port q) else t.port q)
    {l : List Port} (hl : l.Nodup) (s : State) (hw : s.windows = windows) (q : Port) :
    (l.foldl f s).port q = if q ∈ l then change q (s.port q) else s.port q := by
  induction l generalizing s with
  | nil => rfl
  | cons o rest ih =>
    obtain ⟨notIn, nodup⟩ := List.nodup_cons.mp hl
    obtain ⟨hw', hp⟩ := hf s o hw
    rw [List.foldl_cons, ih nodup _ hw', hp]
    by_cases hq : q = o
    · subst hq
      simp [notIn]
    · simp [hq]

theorem mem_allPorts (p : Port) : p ∈ allPorts := List.mem_finRange p

theorem nodup_allPorts : allPorts.Nodup := List.nodup_finRange 4

/-- A port with several notices sent to it in turn (R127, R128). -/
def PortState.told (c : PortState) (bodies : List NoticeBody) : PortState :=
  { c with notices := bodies.foldl (fun l b => appendNotice b l) c.notices }

/-- CHANGED to every port but the committer, each by its own watch set (R60, R130). -/
theorem State.port_sendChanged (s : State) (st : Staging) (p : Port) (q : Sequence) (o : Port) :
    (s.sendChanged st p q).port o
      = if o = p then s.port o else (s.port o).told (changedFor s.windows st p q (s.port o).watch) := by
  unfold State.sendChanged
  rw [port_foldl (windows := s.windows)
    (change := fun o c => if o = p then c else c.told (changedFor s.windows st p q c.watch))
    (fun t x hw => ?_) nodup_allPorts s rfl o, if_pos (mem_allPorts o)]
  by_cases hx : x = p
  · simp only [hx, if_true]
    exact ⟨hw, fun y => by simp⟩
  · simp only [hx, if_false]
    obtain ⟨_, h⟩ := t.notifyList_changes x (changedFor t.windows st p q (t.port x).watch)
    refine ⟨by rw [h]; exact hw, fun y => ?_⟩
    rw [State.port_notifyList]
    by_cases hy : y = x
    · subst hy
      rw [if_pos rfl, if_pos rfl, hw]
      rfl
    · rw [if_neg hy, if_neg hy]

/-- LAYOUT_CHANGED to every port but the committer (R60, R131). -/
theorem State.port_sendLayoutChanged (s : State) (w : WindowNo) (reason : LayoutReason) (p : Port) (q : Sequence)
    (o : Port) :
    (s.sendLayoutChanged w reason p q).port o
      = if o = p then s.port o else (s.port o).told [.layoutChanged w reason p q] := by
  unfold State.sendLayoutChanged
  rw [port_foldl (windows := s.windows)
    (change := fun o c => if o = p then c else c.told [.layoutChanged w reason p q])
    (fun t x hw => ?_) nodup_allPorts s rfl o, if_pos (mem_allPorts o)]
  by_cases hx : x = p
  · simp only [hx, if_true]
    exact ⟨hw, fun y => by simp⟩
  · simp only [hx, if_false]
    refine ⟨hw, fun y => ?_⟩
    rw [State.port_notify]
    by_cases hy : y = x
    · subst hy
      rw [if_pos rfl, if_pos rfl]
      rfl
    · rw [if_neg hy, if_neg hy]

/-! ## The lowest record of a notice (R130) -/

theorem lowestRecord_eq_min? (l : List HostRecord) : lowestRecord l = l.min? := by
  cases l with
  | nil => rfl
  | cons r rest =>
    rw [List.min?_cons', lowestRecord]
    congr 2
    funext a b
    rw [min_comm]
    exact (min_def_lt b a).symm

end Sys2Proof.Machine
end

section
/-! SUPPORT. O46: the pass of the last position of a run, and the commit point of records. -/

namespace Sys2Proof.Machine

/-! ## The run of a job in a store that fits -/

theorem State.DirectoryConsistent.commitFits {s : State} (h : s.DirectoryConsistent) {p : Port} {token : Token}
    {st : Staging} {run : ImageRun} (hj : s.job = .commit p token st run) : s.RunFits run false := by
  have := h.job
  simpa only [State.JobFits, hj] using this

theorem State.DirectoryConsistent.relocationFits {s : State} (h : s.DirectoryConsistent) {target : Sequence}
    {run : ImageRun} (hj : s.job = .relocate target run) : s.RunFits run true ∧ s.CopiesTarget target run := by
  have := h.job
  simpa only [State.JobFits, hj] using this

/-! ## The pass of the last position -/

section
variable {s : State} {g : PageNo} {i : PageImage} {run : ImageRun} (ho : s.op = some (.program g i))
  (hl : run.images.length = run.verified.length + 1)
include ho hl

theorem exec_pass_of_commit {p : Port} {token : Token} {st : Staging} (hj : s.job = .commit p token st run) :
    exec (.pageProgramVerdict .pass) s
      = .next ((s.programPassed g i).commitPoint p token st (run.verify g)) := by
  have complete : (run.verify g).complete = true := by simp [ImageRun.complete, ImageRun.verify, hl]
  have job : (s.programPassed g i).job = .commit p token st run := hj
  simp only [exec, execPageProgramVerdict, ho, State.afterPass, job, State.commitPassed, complete, if_true]

theorem exec_pass_of_relocation {target : Sequence} (hj : s.job = .relocate target run) :
    exec (.pageProgramVerdict .pass) s = .next ((s.programPassed g i).relocationPoint (run.verify g)) := by
  have complete : (run.verify g).complete = true := by simp [ImageRun.complete, ImageRun.verify, hl]
  have job : (s.programPassed g i).job = .relocate target run := hj
  simp only [exec, execPageProgramVerdict, ho, State.afterPass, job, State.relocationPassed, complete, if_true]

end

/-- The tables at the pass of the last position (R59, R66, R67, R77). -/
def State.runCompleted (s : State) (run : ImageRun) (g : PageNo) (i : PageImage) : State :=
  (s.programPassed g i).completed (run.verify g) (run.verified ++ [g])

theorem State.runCompleted_eq {s : State} {run : ImageRun} {relocated : Bool} {g : PageNo} {i : PageImage}
    (hs : s.TablesFit) (h : s.RunFits run relocated) (ho : s.op = some (.program g i))
    (hl : run.images.length = run.verified.length + 1) :
    s.runCompleted run g i = { s with
      pages := s.pagesAfter run (run.verified ++ [g])
      census := s.censusAfter run (run.verified ++ [g])
      records := (s.runCompleted run g i).records
      array := s.array.set g (.programmed i), op := none } := by
  have tables : (s.programPassed g i).TablesFit := hs.programPassed (by rw [(h.program ho).1]; rfl)
  have eq := State.completed_eq tables (h.lastPassed ho hl)
  rw [State.pagesAfter_programPassed hl] at eq
  unfold State.runCompleted
  rw [eq]
  rfl

/-- The committer's port and its COMMIT_DONE at the commit point, before the other notices (R60). -/
def State.commitTold (s : State) (p : Port) (token : Token) (st : Staging) (q : Sequence) : State :=
  (s.onPort p (PortState.completeCommit token q)).notify p (.commitDone token st.count q)

/-- The state at a commit point once the freeze has ended and the engine is free (R59, R60, R113). -/
def State.committed (s : State) (p : Port) (token : Token) (st : Staging) (run : ImageRun) (g : PageNo) (i : PageImage) :
    State :=
  let v := ((s.runCompleted run g i).commitTold p token st run.sequence).announce p st (run.verify g)
  { v with leases := v.leasesThawed p, job := .idle, op := none }

theorem State.commitPoint_eq_settled (s : State) (p : Port) (token : Token) (st : Staging) (run : ImageRun) (g : PageNo)
    (i : PageImage) :
    (s.programPassed g i).commitPoint p token st (run.verify g) = (s.committed p token st run g i).settled := by
  have point : (s.programPassed g i).commitPoint p token st (run.verify g)
      = ((((s.runCompleted run g i).commitTold p token st run.sequence).announce p st (run.verify g)).endFreeze p).endJob :=
    rfl
  rw [point, State.endJob_eq_settled, State.endFreeze_eq]
  rfl

theorem State.port_commitTold (s : State) (p : Port) (token : Token) (st : Staging) (q : Sequence) (o : Port) :
    (s.commitTold p token st q).port o
      = if o = p then { s.port p with
          txn := .none, staging := .records [], lastOutcome := ⟨some token, .done, some q⟩
          notices := appendNotice (.commitDone token st.count q) (s.port p).notices }
        else s.port o := by
  unfold State.commitTold
  rw [State.port_notify, State.port_onPort]
  by_cases h : o = p
  · subst h
    simp [PortState.completeCommit]
  · simp [h]

/-- What the images of a verified run make of the records they name, and of no other (R5, R8). -/
theorem State.runCompleted_record {s : State} {run : ImageRun} {relocated : Bool} {g : PageNo} {i : PageImage}
    (hs : s.TablesFit) (h : s.RunFits run relocated) (ho : s.op = some (.program g i))
    (hl : run.images.length = run.verified.length + 1) {k : Nat} {image : PageImage} {page : PageNo} {r : RecordNo}
    (hi : run.images[k]? = some image) (hp : (run.verified ++ [g])[k]? = some page) (hr : image.header.record = some r) :
    (s.runCompleted run g i).record r = (s.record r).switched image page := by
  have tables : (s.programPassed g i).TablesFit := hs.programPassed (by rw [(h.program ho).1]; rfl)
  exact State.completed_record_of_named tables.backed tables.census (h.lastPassed ho hl) hi hp hr

theorem State.runCompleted_record_of_unnamed {s : State} {run : ImageRun} {g : PageNo} {i : PageImage} {r : RecordNo}
    (hr : ∀ x ∈ run.images, x.header.record ≠ some r) : (s.runCompleted run g i).record r = s.record r :=
  State.completed_record_of_unnamed (s := s.programPassed g i) (run := run.verify g) hr

/-- The CHANGED notices of an area, with the lowest record and the count (R60, R130). -/
theorem changedFor_records (l : Layout) (es : List StagedEntry) (p : Port) (q : Sequence) (watch : Table Bool 17) :
    changedFor l (.records es) p q watch
      = (allAreas.filter fun a => watch.get a).filterMap fun a =>
          ((es.map StagedEntry.record).filter fun r => areaOf l r == a).min?.map fun r =>
            .changed a r ((es.map StagedEntry.record).filter fun r => areaOf l r == a).length p q := by
  unfold changedFor
  refine List.filterMap_congr fun a _ => ?_
  unfold changedNotice
  rw [lowestRecord_eq_min?]
  rfl

/-- Settles O46: the tables by the completion of the run, the ports by what each notice does to its port. -/
theorem commitPointOfRecords : Obligations.CommitPointOfRecords := by
  intro s g i p token es run ho hj hl hd
  have fits := hd.commitFits hj
  have completed := State.runCompleted_eq hd.tables fits ho hl
  obtain ⟨_, told⟩ := ((s.runCompleted run g i).commitTold p token (.records es) run.sequence).sendChanged_changes
    (.records es) p run.sequence
  have announced : ((s.runCompleted run g i).commitTold p token (.records es) run.sequence).announce p (.records es)
      (run.verify g)
      = ((s.runCompleted run g i).commitTold p token (.records es) run.sequence).sendChanged (.records es) p
        run.sequence := rfl
  have windows : ((s.runCompleted run g i).commitTold p token (.records es) run.sequence).windows = s.windows := by
    unfold State.commitTold
    rw [completed]
    rfl
  have ports (o : Port) : (s.runCompleted run g i).port o = s.port o := by
    rw [completed]
    rfl
  have records (r : RecordNo) : (s.committed p token (.records es) run g i).record r = (s.runCompleted run g i).record r := by
    unfold State.committed
    rw [announced, told]
    rfl
  have port (o : Port) : (s.committed p token (.records es) run g i).port o
      = (((s.runCompleted run g i).commitTold p token (.records es) run.sequence).sendChanged (.records es) p
        run.sequence).port o := by
    unfold State.committed
    rw [announced]
    rfl
  refine ⟨s.committed p token (.records es) run g i, ?_, ?_, fun r hr => ?_, fun k image page r hi hp hr => ?_, ?_,
    fun o hne => ?_⟩
  · rw [exec_pass_of_commit ho hl hj, State.commitPoint_eq_settled]
  · unfold State.committed
    rw [announced, told]
    unfold State.commitTold
    rw [completed]
    rfl
  · rw [records, State.runCompleted_record_of_unnamed hr]
  · obtain ⟨-, -, -, -, images, -⟩ := fits
    obtain ⟨-, -, -, -, -, -, notRelocated, -⟩ := images k image hi
    rw [records, State.runCompleted_record hd.tables (hd.commitFits hj) ho hl hi hp hr, RecordEntry.switched, notRelocated]
    rfl
  · rw [port, State.port_sendChanged, if_pos rfl, State.port_commitTold, if_pos rfl, ports]
    rfl
  · rw [port, State.port_sendChanged, if_neg hne, State.port_commitTold, if_neg hne, ports, windows, changedFor_records]
    rfl

end Sys2Proof.Machine
end

section
/-! SUPPORT. O47: the commit point of a layout commit. -/

namespace Sys2Proof.Machine

/-! ## The commit point of a layout commit -/

/-- The lease of a window stays at a layout commit point: the window is LEASED by the new list (R122). -/
def leaseStays (d : Option WindowDef) : Bool :=
  match d with
  | some d => match d.policy with
    | .leased _ => true
    | .openWrite => false
    | .frozen => false
  | none => false

/-- The lease state of the window that a layout commit names, after it (R122). -/
def LeaseState.settledBy (stays : Bool) (l : LeaseState) : LeaseState :=
  if stays then l
  else match l.held with
    | some _ => ⟨none, []⟩
    | none => l

/-- Port `o` has the lease revoked at a layout commit point (R122). -/
def LeaseState.revokedFrom (stays : Bool) (l : LeaseState) (o : Port) : Bool :=
  !stays && match l.held with
    | some h => h.port == o
    | none => false

/-- A port's watch set after a layout commit (R121). -/
def PortState.watchSettled (c : PortState) (w : WindowNo) : LayoutReason → PortState
  | .clear => { c with watch := c.watch.set w.castSucc false }
  | .define => c

theorem State.setLease_lease (s : State) (w : WindowNo) : s.setLease w (s.lease w) = s := by
  simp only [State.setLease, State.lease, Table.set_get_self]

/-- The lease of the named window settles against the Window Table (R122). -/
theorem State.settleLease_eq (s : State) (w : WindowNo) :
    ∃ ports, s.settleLease w
        = { s.setLease w ((s.lease w).settledBy (leaseStays (s.windows.get w))) with ports := ports }
      ∧ ∀ o, ports.get o = if (s.lease w).revokedFrom (leaseStays (s.windows.get w)) o
          then (s.port o).told [.leaseRevoked w] else s.port o := by
  have keeps (h : s.settleLease w = s) (hl : (s.lease w).settledBy (leaseStays (s.windows.get w)) = s.lease w)
      (hr : ∀ o, (s.lease w).revokedFrom (leaseStays (s.windows.get w)) o = false) :
      ∃ ports, s.settleLease w
          = { s.setLease w ((s.lease w).settledBy (leaseStays (s.windows.get w))) with ports := ports }
        ∧ ∀ o, ports.get o = if (s.lease w).revokedFrom (leaseStays (s.windows.get w)) o
            then (s.port o).told [.leaseRevoked w] else s.port o := by
    refine ⟨s.ports, by rw [h, hl, State.setLease_lease], fun o => ?_⟩
    rw [hr o]
    rfl
  cases hs : leaseStays (s.windows.get w) with
  | true =>
    rw [hs] at keeps
    refine keeps ?_ rfl fun _ => rfl
    unfold State.settleLease
    unfold leaseStays at hs
    cases hd : s.windows.get w with
    | none => simp [hd] at hs
    | some d =>
      cases hp : d.policy with
      | leased _ => simp [hp]
      | openWrite => simp [hd, hp] at hs
      | frozen => simp [hd, hp] at hs
  | false =>
    rw [hs] at keeps
    have settle : s.settleLease w
        = (s.lease w).held.elim s fun h => (s.setLease w .free).notify h.port (.leaseRevoked w) := by
      unfold State.settleLease
      unfold leaseStays at hs
      cases hd : s.windows.get w with
      | none => cases (s.lease w).held <;> rfl
      | some d =>
        cases hp : d.policy with
        | leased _ => simp [hd, hp] at hs
        | openWrite =>
          rw [Option.map_some, hp]
          cases (s.lease w).held <;> rfl
        | frozen =>
          rw [Option.map_some, hp]
          cases (s.lease w).held <;> rfl
    cases hh : (s.lease w).held with
    | none =>
      rw [hh] at settle
      exact keeps settle (by simp [LeaseState.settledBy, hh]) fun o => by simp [LeaseState.revokedFrom, hh]
    | some h =>
      rw [hh] at settle
      refine ⟨((s.setLease w .free).notify h.port (.leaseRevoked w)).ports, settle.trans ?_, fun o => ?_⟩
      · simp only [LeaseState.settledBy, hh]
        rfl
      · have revoked : (s.lease w).revokedFrom false o = decide (o = h.port) := by
          simp [LeaseState.revokedFrom, hh, Bool.beq_eq_decide_eq, eq_comm]
        have port := (s.setLease w .free).port_notify h.port o (.leaseRevoked w)
        rw [State.port] at port
        rw [port, revoked]
        by_cases ho : o = h.port
        · rw [if_pos ho, if_pos (by simpa using ho)]
          rfl
        · rw [if_neg ho, if_neg (by simpa using ho)]
          rfl

/-- What a port holds once a layout commit is announced, but for the revoking of a lease (R17, R60, R121, R131). -/
def PortState.layoutTold (c : PortState) (w : WindowNo) (reason : LayoutReason) (committer : Bool) (p : Port)
    (q : Sequence) : PortState :=
  if committer then (c.watchSettled w reason).endAreaScan
  else (c.watchSettled w reason).endAreaScan.told [.layoutChanged w reason p q]

/-- A layout commit point announces itself: the Window Table, the lease of the named window, and every port (R60, R121,
R122). -/
theorem State.announce_of_layout (s : State) (p : Port) {st : Staging} {run : ImageRun} {i : PageImage} {list : Layout}
    {w : WindowNo} {reason : LayoutReason} (hst : st.layoutEntry = some (w, reason)) (hi : run.images = [i])
    (hp : i.payload = .layout list) :
    ∃ ports, s.announce p st run
        = { s.setLease w ((s.lease w).settledBy (leaseStays (list.get w))) with windows := list, ports := ports }
      ∧ ∀ o, ports.get o = if (s.lease w).revokedFrom (leaseStays (list.get w)) o
          then ((s.port o).layoutTold w reason (o = p) p run.sequence).told [.leaseRevoked w]
          else (s.port o).layoutTold w reason (o = p) p run.sequence := by
  have switched : s.switchWindows run.images = { s with windows := list } := by
    simp [State.switchWindows, hi, hp]
  have settled (t : State) : ∃ ports, t.settleWatches w reason = { t with ports := ports }
      ∧ ∀ o, ports.get o = (t.port o).watchSettled w reason := by
    cases reason with
    | define => exact ⟨t.ports, rfl, fun _ => rfl⟩
    | clear => exact ⟨_, rfl, fun o => Table.get_map _ _ _⟩
  obtain ⟨watched, hw, hwport⟩ := settled { s with windows := list }
  obtain ⟨sent, hsent⟩ := (({ s with windows := list, ports := watched } : State).onPorts
    PortState.endAreaScan).sendLayoutChanged_changes w reason p run.sequence
  have told (o : Port) : sent.get o = (s.port o).layoutTold w reason (o = p) p run.sequence := by
    have := (({ s with windows := list, ports := watched } : State).onPorts
      PortState.endAreaScan).port_sendLayoutChanged w reason p run.sequence o
    rw [hsent] at this
    refine this.trans ?_
    rw [State.port_onPorts]
    have port : ({ s with windows := list, ports := watched } : State).port o = (s.port o).watchSettled w reason :=
      hwport o
    rw [port, PortState.layoutTold]
    by_cases ho : o = p <;> simp [ho]
  obtain ⟨ports, hports, hport⟩ := State.settleLease_eq ({ s with windows := list, ports := sent } : State) w
  refine ⟨ports, ?_, fun o => ?_⟩
  · unfold State.announce
    simp only [hst]
    rw [switched, hw, hsent]
    exact hports
  · rw [hport o]
    have port : ({ s with windows := list, ports := sent } : State).port o
        = (s.port o).layoutTold w reason (o = p) p run.sequence := told o
    rw [port]
    rfl

theorem ScanCursor.endLayout_eq (c : ScanCursor) :
    c.endLayout = if c.scope = .area ∧ c.endReason = none then { c with endReason := some .layout } else c := by
  unfold ScanCursor.endLayout
  cases c.scope <;> cases c.endReason <;> simp

/-- The end of area scans, as a change of the holder (R17). -/
theorem PortState.endAreaScan_eq (c : PortState) :
    c.endAreaScan = { c with holder := match c.holder with
      | .scan x => if x.scope = .area ∧ x.endReason = none then .scan { x with endReason := some .layout } else .scan x
      | .empty => .empty
      | .result status payload => .result status payload } := by
  rw [PortState.endAreaScan_holder]
  cases c.holder with
  | scan x =>
    simp only [ScanCursor.endLayout_eq]
    split <;> rfl
  | empty => rfl
  | result _ _ => rfl

/-- The one image of a layout commit. -/
theorem State.runCompleted_records_of_layout {s : State} {run : ImageRun} {g : PageNo} {i : PageImage} {list : Layout}
    (hi : run.images = [i]) (hv : run.verified = []) (hk : i.header.kind = .layout) (hr : i.header.record = some 128)
    (hn : i.header.relocated = false) (hp : i.payload = .layout list) :
    (s.runCompleted run g i).records
      = s.records.set 128 (.present (i.header.version.getD 0) (.layout list) g i.header.sequence) := by
  have entry (e : RecordEntry) :
      e.switched i g = .present (i.header.version.getD 0) (.layout list) g i.header.sequence := by
    simp [RecordEntry.switched, PageImage.entry, hn, hk, hp]
  unfold State.runCompleted State.completed ImageRun.verify
  simp only [hi, hv, List.nil_append]
  unfold State.takeEffectAll State.takeEffect
  simp only [List.zip_cons_cons, List.zip_nil_right, List.foldl_cons, List.foldl_nil, hr, entry]
  obtain ⟨_, _, superseded⟩ := (s.programPassed g i).supersedeRecord_changes 128
  rw [superseded]
  rfl

/-- The freeze of a port's leases ends from the leases and the Window Table alone (R113). -/
theorem State.leasesThawed_congr {s t : State} (hl : s.leases = t.leases) (hw : s.windows = t.windows) (p : Port) :
    s.leasesThawed p = t.leasesThawed p := by
  unfold State.leasesThawed State.leaseTime State.lease
  rw [hl, hw]

section
variable {s : State} {g : PageNo} {i : PageImage} {p : Port} {token : Token} {st : Staging} {run : ImageRun}
  {list : Layout} {w : WindowNo} {reason : LayoutReason}
  (ho : s.op = some (.program g i)) (hj : s.job = .commit p token st run) (hst : st.layoutEntry = some (w, reason))
  (hi : run.images = [i]) (hv : run.verified = []) (hp : i.payload = .layout list) (hd : s.DirectoryConsistent)
include ho hj hst hi hv hp hd

/-- The commit point of a layout commit, field by field (R17, R59, R60, R113, R121, R122). -/
theorem State.committed_of_layout :
    s.committed p token st run g i = { s with
        ports := (s.committed p token st run g i).ports
        records := (s.runCompleted run g i).records
        pages := s.pagesAfter run [g], census := s.censusAfter run [g]
        job := .idle, op := none
        array := s.array.set g (.programmed i), windows := list
        leases := ({ s.setLease w ((s.lease w).settledBy (leaseStays (list.get w))) with windows := list } :
          State).leasesThawed p }
      ∧ ∀ o, (s.committed p token st run g i).port o
        = if (s.lease w).revokedFrom (leaseStays (list.get w)) o
          then (((s.commitTold p token st run.sequence).port o).layoutTold w reason (o = p) p run.sequence).told
            [.leaseRevoked w]
          else ((s.commitTold p token st run.sequence).port o).layoutTold w reason (o = p) p run.sequence := by
  have completed := State.runCompleted_eq hd.tables (hd.commitFits hj) ho (by rw [hi, hv]; rfl)
  rw [hv, List.nil_append] at completed
  obtain ⟨ports, announced, port⟩ := ((s.runCompleted run g i).commitTold p token st run.sequence).announce_of_layout
    p (run := run.verify g) hst hi hp
  have told (o : Port) : ((s.runCompleted run g i).commitTold p token st run.sequence).port o
      = (s.commitTold p token st run.sequence).port o := by
    rw [State.port_commitTold, State.port_commitTold, completed]
    rfl
  have lease : ((s.runCompleted run g i).commitTold p token st run.sequence).lease w = s.lease w := by
    rw [completed]
    rfl
  rw [lease] at port
  refine ⟨?_, fun o => ?_⟩
  · have thawed := State.leasesThawed_congr
      (s := ((s.runCompleted run g i).commitTold p token st run.sequence).announce p st (run.verify g))
      (t := { s.setLease w ((s.lease w).settledBy (leaseStays (list.get w))) with windows := list })
      (by rw [announced, lease, completed]; rfl) (by rw [announced]) p
    unfold State.committed
    dsimp only
    rw [thawed, announced, completed]
    rfl
  · have : (s.committed p token st run g i).port o = ports.get o := by
      unfold State.committed
      rw [announced]
      rfl
    rw [this, port o, told o]
    rfl

end

/-- The staging of a layout commit: DEFINE with a definition, CLEAR without. -/
def layoutStaging (w : WindowNo) : Option WindowDef → Staging
  | some d => .define w d
  | none => .clear w

/-- The reason that LAYOUT_CHANGED gives (R131). -/
def layoutReasonOf (defined : Option WindowDef) : LayoutReason := if defined.isSome then .define else .clear

theorem layoutEntry_layoutStaging (w : WindowNo) (defined : Option WindowDef) :
    (layoutStaging w defined).layoutEntry = some (w, layoutReasonOf defined) := by
  cases defined <;> rfl

theorem count_layoutStaging (w : WindowNo) (defined : Option WindowDef) : (layoutStaging w defined).count = 1 := by
  cases defined <;> rfl

/-- A port once a layout commit is announced, field by field (R17, R60, R121, R131). -/
theorem PortState.layoutTold_eq (c : PortState) (w : WindowNo) (defined : Option WindowDef) (committer : Bool) (p : Port)
    (q : Sequence) :
    c.layoutTold w (layoutReasonOf defined) committer p q = { c with
      watch := if defined.isSome then c.watch else c.watch.set w.castSucc false
      holder := match c.holder with
        | .scan x => if x.scope = .area ∧ x.endReason = none then .scan { x with endReason := some .layout } else .scan x
        | .empty => .empty
        | .result status payload => .result status payload
      notices := if committer then c.notices else appendNotice (.layoutChanged w (layoutReasonOf defined) p q) c.notices } := by
  have watch : c.watchSettled w (layoutReasonOf defined)
      = { c with watch := if defined.isSome then c.watch else c.watch.set w.castSucc false } := by
    cases defined <;> rfl
  unfold PortState.layoutTold
  rw [watch, PortState.endAreaScan_eq]
  cases committer <;> rfl

/-- A port with a notice that is sent to it or not. -/
theorem PortState.told_ite (c : PortState) (sent : Bool) (body : NoticeBody) :
    (if sent then c.told [body] else c)
      = { c with notices := if sent then appendNotice body c.notices else c.notices } := by
  cases sent <;> rfl

/-- Settles O47: the tables by the completion of the run, the lease and the ports by the announcement. -/
theorem commitPointOfLayout : Obligations.CommitPointOfLayout := by
  intro s g i p token w defined run list ho hj hi hv hk hr hn hp hd
  have job : s.job = .commit p token (layoutStaging w defined) run := hj
  have hl : run.images.length = run.verified.length + 1 := by rw [hi, hv]; rfl
  obtain ⟨state, port⟩ :=
    State.committed_of_layout ho job (layoutEntry_layoutStaging w defined) hi hv hp hd
  refine ⟨s.committed p token (layoutStaging w defined) run g i, ?_, ?_, ?_, fun o => ?_⟩
  · rw [exec_pass_of_commit ho hl job, State.commitPoint_eq_settled]
  · rw [state]
    rfl
  · rw [state, s.runCompleted_records_of_layout hi hv hk hr hn hp]
  · rw [port o, PortState.told_ite, PortState.layoutTold_eq, State.port_commitTold, count_layoutStaging]
    by_cases committer : o = p
    · subst committer
      simp only [if_true, decide_true]
      rfl
    · simp only [committer, if_false, decide_false, Bool.false_eq_true]
      rfl

end Sys2Proof.Machine
end

section
/-! SUPPORT. O48: what a relocation copies, and its completion. -/

namespace Sys2Proof.Machine

/-! ## What a relocation copies (R75) -/

theorem CensusEntry.live_eq_length_filter (e : CensusEntry) : e.live = (e.pages.filter CensusPage.live).length :=
  List.countP_eq_length_filter

theorem CensusEntry.mem_filter_live {e : CensusEntry} {x : CensusPage} :
    x ∈ e.pages.filter CensusPage.live ↔ x ∈ e.pages ∧ x.live = true := List.mem_filter

/-- Image `i` is the copy of the LIVE page `x`, for the sequence of the run (R75). -/
def State.CopyOf (s : State) (q : Sequence) (i : PageImage) (x : PageNo) : Prop :=
  ∃ h, s.page x = .live h ∧ i.header.record = h.record ∧ i.header.version = h.version ∧ i.header.kind = h.kind
    ∧ i.header.relocated = true ∧ i.header.sequence = q

/-- The images of a relocation and the LIVE pages of its target's entry are one another's (R75). -/
theorem State.CopiesTarget.exists_entry {s : State} {target : Sequence} {run : ImageRun}
    (h : s.CopiesTarget target run) :
    ∃ e ∈ s.census, e.sequence = target
      ∧ (∀ i ∈ run.images, ∃ x ∈ e.pages, x.live = true ∧ s.CopyOf run.sequence i x.page)
      ∧ ∀ x ∈ e.pages, x.live = true → ∃ i ∈ run.images, s.CopyOf run.sequence i x.page := by
  obtain ⟨e, he, hq, length, copies⟩ := h
  rw [e.live_eq_length_filter] at length
  refine ⟨e, he, hq, fun i hi => ?_, fun x hx live => ?_⟩
  · obtain ⟨k, hk⟩ := List.mem_iff_getElem?.mp hi
    have lt : k < (e.pages.filter CensusPage.live).length := length ▸ (List.getElem?_eq_some_iff.mp hk).1
    obtain ⟨d, j, hd, hj, header⟩ := copies k _ (List.getElem?_eq_getElem lt)
    obtain rfl := Option.some.inj (hk.symm.trans hj)
    obtain ⟨mem, live⟩ := CensusEntry.mem_filter_live.mp (List.getElem_mem lt)
    exact ⟨_, mem, live, d, hd, by simp [header]⟩
  · obtain ⟨k, hk⟩ := List.mem_iff_getElem?.mp (CensusEntry.mem_filter_live.mpr ⟨hx, live⟩)
    obtain ⟨d, j, hd, hj, header⟩ := copies k x hk
    exact ⟨j, List.mem_of_getElem? hj, d, hd, by simp [header]⟩

/-- The pages that a relocation copies stay LIVE, so it copies its target still. -/
theorem State.CopiesTarget.of_live {s t : State} {target : Sequence} {run run' : ImageRun}
    (h : s.CopiesTarget target run) (he : t.census = s.census) (hi : run'.images = run.images)
    (hq : run'.sequence = run.sequence) (hp : ∀ g k, s.page g = .live k → t.page g = .live k) :
    t.CopiesTarget target run' := by
  obtain ⟨e, hm, hs, length, copies⟩ := h
  refine ⟨e, he ▸ hm, hs, hi ▸ length, fun k x hx => ?_⟩
  obtain ⟨d, i, hd, hk, header⟩ := copies k x hx
  exact ⟨d, i, hp _ _ hd, hi ▸ hk, hq ▸ header⟩

section
variable {s : State} {target : Sequence} {run : ImageRun} (hb : s.RecordsBacked) (hc : s.CensusExact)
  (h : s.CopiesTarget target run)

section
include hb

/-- The record of a copied page is the record that the copy names (R2, R75). -/
theorem State.CopyOf.record {q : Sequence} {i : PageImage} {x : PageNo} (hx : s.CopyOf q i x) :
    ∃ r p, i.header.record = some r ∧ (s.record r).backing = some (x, p) ∧ (s.record r).CarriedBy i := by
  obtain ⟨d, hd, record, version, kind, -, -⟩ := hx
  obtain ⟨r, hr, hq⟩ := hb.2 x d hd
  obtain ⟨d', hd', -, hv, -, -, deleted⟩ := hb.1 r x d.sequence hq
  obtain rfl := PageEntry.live.inj (hd.symm.trans hd')
  refine ⟨r, d.sequence, record.trans hr, hq, fun _ => ⟨version.trans hv, ?_, by rw [hq]; rfl⟩⟩
  rw [kind, deleted]
  refine ⟨fun e => ⟨_, _, _, e⟩, ?_⟩
  rintro ⟨v, g, p, e⟩
  rw [e] at hq ⊢
  cases hq
  rfl

include h in
/-- A relocation carries each record's own version and kind (R75). -/
theorem State.CopiesTarget.carried {i : PageImage} (hi : i ∈ run.images) {r : RecordNo}
    (hr : i.header.record = some r) : (s.record r).CarriedBy i := by
  obtain ⟨e, -, -, copies, -⟩ := h.exists_entry
  obtain ⟨x, -, -, copy⟩ := copies i hi
  obtain ⟨r', -, hr', -, carried⟩ := copy.record hb
  obtain rfl := Option.some.inj (hr.symm.trans hr')
  exact carried

end

include hb hc h

omit hc in
/-- What a relocation supersedes: the LIVE pages of its target's entry (R77). -/
theorem State.CopiesTarget.gone_iff {pages : List PageNo} (hl : run.images.length = pages.length) :
    ∃ e ∈ s.census, e.sequence = target
      ∧ ∀ g, s.gone (run.images.zip pages) g = true ↔ ∃ x ∈ e.pages, x.live = true ∧ x.page = g := by
  obtain ⟨e, he, hs, copies, copied⟩ := h.exists_entry
  refine ⟨e, he, hs, fun g => ?_⟩
  have named : s.gone (run.images.zip pages) g = true ↔ ∃ i ∈ run.images, s.formerPage i = some g := by
    rw [← s.supersedes_eq_gone run.images pages hl]
    simp only [State.supersedes, List.any_eq_true]
    refine exists_congr fun i => and_congr_right fun _ => ?_
    unfold State.formerPage
    cases i.header.record <;> simp
  rw [named]
  constructor
  · rintro ⟨i, hi, former⟩
    obtain ⟨x, hx, live, copy⟩ := copies i hi
    obtain ⟨r, p, hr, hq, -⟩ := copy.record hb
    obtain ⟨r', q, hr', hq'⟩ := (s.formerPage_eq_some_iff i g).mp former
    obtain rfl := Option.some.inj (hr.symm.trans hr')
    rw [hq] at hq'
    cases hq'
    exact ⟨x, hx, live, rfl⟩
  · rintro ⟨x, hx, live, rfl⟩
    obtain ⟨i, hi, copy⟩ := copied x hx live
    obtain ⟨r, p, hr, hq, -⟩ := copy.record hb
    exact ⟨i, hi, (s.formerPage_eq_some_iff i _).mpr ⟨r, p, hr, hq⟩⟩

/-- The target's entry is left without a LIVE page, every other entry as it was (R66, R77). -/
theorem State.CopiesTarget.without {pages : List PageNo} (hl : run.images.length = pages.length) {f : CensusEntry}
    (hf : f ∈ s.census) :
    (f.sequence = target → (f.without (s.gone (run.images.zip pages))).live = 0)
      ∧ (f.sequence ≠ target → f.without (s.gone (run.images.zip pages)) = f
        ∧ ∀ x ∈ f.pages, s.gone (run.images.zip pages) x.page = false) := by
  obtain ⟨e, he, hs, gone⟩ := h.gone_iff hb hl
  refine ⟨fun ht => ?_, fun ht => ?_⟩
  · obtain rfl := hc.eq_of_sequence hf he (ht.trans hs.symm)
    exact (CensusEntry.without_live_eq_zero_iff f _).mpr fun x hx live => (gone _).mpr ⟨x, hx, live, rfl⟩
  · have stays : ∀ x ∈ f.pages, s.gone (run.images.zip pages) x.page = false := by
      intro x hx
      rw [Bool.eq_false_iff, Ne, gone]
      rintro ⟨y, hy, -, page⟩
      exact ht ((hc.eq_of_page he hf hy hx page).1 ▸ hs)
    exact ⟨(CensusEntry.without_congr stays).trans f.without_nothing, stays⟩

theorem State.CopiesTarget.censusWithout {pages : List PageNo} (hl : run.images.length = pages.length) :
    s.censusWithout (s.gone (run.images.zip pages)) = s.census.filter fun e => e.sequence ≠ target := by
  unfold State.censusWithout
  rw [← List.filterMap_eq_filter]
  refine List.filterMap_congr fun f hf => ?_
  obtain ⟨dead, stays⟩ := h.without hb hc hl hf
  by_cases ht : f.sequence = target
  · simp [Option.guard, dead ht, ht]
  · obtain ⟨same, -⟩ := stays ht
    obtain ⟨-, alive, -⟩ := hc.2.1 f hf
    simp [Option.guard, same, alive, ht]

theorem State.CopiesTarget.pageWithout {pages : List PageNo} (hl : run.images.length = pages.length) (g : PageNo) :
    ((∃ e ∈ s.census, e.sequence = target ∧ ∃ x ∈ e.pages, x.page = g)
        → s.pageWithout (s.gone (run.images.zip pages)) g = .stale)
      ∧ ((¬ ∃ e ∈ s.census, e.sequence = target ∧ ∃ x ∈ e.pages, x.page = g)
        → s.pageWithout (s.gone (run.images.zip pages)) g = s.page g) := by
  refine ⟨?_, fun other => ?_⟩
  · rintro ⟨e, he, hs, x, hx, rfl⟩
    rw [State.pageWithout_of_mem hc he hx, if_pos ((h.without hb hc hl he).1 hs)]
  · cases kept : (s.page g).isKept with
    | false => exact State.pageWithout_of_not_kept hc kept (State.gone_of_not_kept hb _ kept)
    | true =>
      obtain ⟨f, hf, x, hx, rfl⟩ := hc.exists_of_kept kept
      obtain ⟨same, stays⟩ := (h.without hb hc hl hf).2 fun ht => other ⟨f, hf, ht, x, hx, rfl⟩
      obtain ⟨-, alive, -⟩ := hc.2.1 f hf
      rw [State.pageWithout_of_mem hc hf hx, same, if_neg (by omega), stays x hx]
      rfl

end

/-! ## The completion of a relocation (R77) -/

/-- A program that passes leaves LIVE pages alone. -/
theorem State.live_programPassed {s : State} {g : PageNo} {i : PageImage} (hp : s.page g = .pending none) (x : PageNo)
    (d : Header) (hx : s.page x = .live d) : (s.programPassed g i).page x = .live d := by
  have : x ≠ g := by
    rintro rfl
    rw [hp] at hx
    cases hx
  rw [State.page_programPassed, if_neg this, hx]

/-- A record keeps version, data and state when a copy of it takes effect (R9, R77). -/
theorem RecordEntry.switched_of_copy (e : RecordEntry) {i : PageImage} (g : PageNo) (h : i.header.relocated = true) :
    (e.switched i g).version = e.version ∧ (e.switched i g).payload = e.payload
      ∧ (e.switched i g).stateCode = e.stateCode := by
  rw [RecordEntry.switched_of_relocated e i g h]
  cases e <;> exact ⟨rfl, rfl, rfl⟩

/-- The state at the completion of a relocation once the engine is free (R77). -/
def State.relocated (s : State) (run : ImageRun) (g : PageNo) (i : PageImage) : State :=
  { s.runCompleted run g i with job := .idle, op := none }

theorem State.relocationPoint_eq_settled (s : State) (run : ImageRun) (g : PageNo) (i : PageImage) :
    (s.programPassed g i).relocationPoint (run.verify g) = (s.relocated run g i).settled := rfl

/-- The tables once a program of the run has passed (R26). -/
theorem State.RunFits.tablesPassed {s : State} {g : PageNo} {i : PageImage} {run : ImageRun} {relocated : Bool}
    (hf : s.RunFits run relocated) (ho : s.op = some (.program g i)) (hs : s.TablesFit) :
    (s.programPassed g i).TablesFit := hs.programPassed (by rw [(hf.program ho).1]; rfl)

section
variable {s : State} {g : PageNo} {i : PageImage} {target : Sequence} {run : ImageRun}
  (ho : s.op = some (.program g i)) (hl : run.images.length = run.verified.length + 1) (hs : s.TablesFit)
  (hf : s.RunFits run true) (hc : s.CopiesTarget target run)
include ho hs hf

omit hs in
include hc in
theorem State.RunFits.copiesPassed : (s.programPassed g i).CopiesTarget target (run.verify g) :=
  hc.of_live rfl rfl rfl (State.live_programPassed (hf.program ho).1)

include hl

theorem State.relocated_record_of_named {k : Nat} {image : PageImage} {page : PageNo} {r : RecordNo}
    (hi : run.images[k]? = some image) (hp : (run.verified ++ [g])[k]? = some page) (hr : image.header.record = some r) :
    (s.relocated run g i).record r = (s.record r).switched image page :=
  State.runCompleted_record hs hf ho hl hi hp hr

/-- A relocation keeps version, data and state of every record (R9, R77). -/
theorem State.relocated_record (r : RecordNo) :
    ((s.relocated run g i).record r).version = (s.record r).version
      ∧ ((s.relocated run g i).record r).payload = (s.record r).payload
      ∧ ((s.relocated run g i).record r).stateCode = (s.record r).stateCode := by
  by_cases named : ∃ image ∈ run.images, image.header.record = some r
  · obtain ⟨image, mem, hr⟩ := named
    obtain ⟨k, page, hk, hp⟩ := (hf.lastPassed ho hl).exists_page mem
    have copied : image.header.relocated = true := ((hf.lastPassed ho hl).images k image hk).2.2.2.2.2.2.1
    rw [State.relocated_record_of_named ho hl hs hf hk hp hr]
    exact RecordEntry.switched_of_copy _ page copied
  · have : (s.relocated run g i).record r = s.record r :=
      State.runCompleted_record_of_unnamed fun image mem hr => named ⟨image, mem, hr⟩
    rw [this]
    exact ⟨rfl, rfl, rfl⟩

include hc

theorem State.relocated_census :
    (s.relocated run g i).census = (s.census.filter fun e => e.sequence ≠ target)
      ++ [⟨run.sequence, (run.verified ++ [g]).map fun page => ⟨page, true⟩⟩] := by
  have tables := hf.tablesPassed ho hs
  have census := State.completed_census tables.backed tables.census (hf.lastPassed ho hl)
  rw [(hf.copiesPassed ho hc).censusWithout tables.backed tables.census (hf.lastPassed ho hl).length] at census
  exact census

theorem State.relocated_page_of_other {x : PageNo} (hx : x ∉ run.verified ++ [g]) :
    ((∃ e ∈ s.census, e.sequence = target ∧ ∃ y ∈ e.pages, y.page = x) → (s.relocated run g i).page x = .stale)
      ∧ ((¬ ∃ e ∈ s.census, e.sequence = target ∧ ∃ y ∈ e.pages, y.page = x)
        → (s.relocated run g i).page x = s.page x) := by
  have tables := hf.tablesPassed ho hs
  have page : (s.relocated run g i).page x = _ :=
    State.completed_page_of_other tables.backed tables.census (hf.lastPassed ho hl) hx
  have goes := (hf.copiesPassed ho hc).pageWithout tables.backed tables.census (hf.lastPassed ho hl).length x
  have same : (s.programPassed g i).page x = s.page x := by
    rw [State.page_programPassed, if_neg fun e => hx (by simp [e])]
  rw [page]
  exact ⟨goes.1, fun other => (goes.2 other).trans same⟩

/-- A moved record names its new page and the sequence of the relocation (R9). -/
theorem State.relocated_backing {k : Nat} {image : PageImage} {page : PageNo} (hi : run.images[k]? = some image)
    (hp : (run.verified ++ [g])[k]? = some page) :
    ∃ r, image.header.record = some r ∧ ((s.relocated run g i).record r).backing = some (page, run.sequence) := by
  have tables := hf.tablesPassed ho hs
  obtain ⟨-, named, version, sequence, -, -, -, kind⟩ := (hf.lastPassed ho hl).images k image hi
  obtain ⟨r, hr⟩ := Option.isSome_iff_exists.mp named
  have carried : (s.record r).CarriedBy image :=
    (hf.copiesPassed ho hc).carried tables.backed (List.mem_of_getElem? hi) hr
  refine ⟨r, hr, ?_⟩
  rw [State.relocated_record_of_named ho hl hs hf hi hp hr, (RecordEntry.switched_backed page carried version kind).1,
    sequence]
  rfl

end

/-- Settles O48: the completion of the run, whose images supersede the target's LIVE pages and no others. -/
theorem relocationKeepsRecords : Obligations.RelocationKeepsRecords := by
  intro s g i target run ho hj hl hd
  obtain ⟨fits, copies⟩ := hd.relocationFits hj
  have completed := State.runCompleted_eq hd.tables fits ho hl
  have kept := State.relocated_record ho hl hd.tables fits
  refine ⟨s.relocated run g i, ?_, ?_, fun r => ?_, fun r => ⟨(kept r).1, (kept r).2.1⟩,
    fun k image page hi hp => ⟨?_, State.relocated_backing ho hl hd.tables fits copies hi hp⟩,
    fun r hr => State.runCompleted_record_of_unnamed hr, State.relocated_census ho hl hd.tables fits copies,
    fun x hx => ?_⟩
  · rw [exec_pass_of_relocation ho hl hj, State.relocationPoint_eq_settled]
  · unfold State.relocated
    rw [completed]
  · obtain ⟨version, payload, stateCode⟩ := kept (tableNo r)
    simp only [State.recordBytes, version, payload, stateCode]
  · exact State.completed_page_of_run (fits.tablesPassed ho hd.tables).backed (fits.tablesPassed ho hd.tables).census
      (fits.lastPassed ho hl) hi hp
  · obtain ⟨stale, same⟩ := State.relocated_page_of_other ho hl hd.tables fits copies hx
    split
    · next target => exact stale target
    · next other => exact same other

end Sys2Proof.Machine
end

section
/-! SUPPORT. O57: the end of a job, its next program, and the start of a commit, a relocation or an erase. -/

namespace Sys2Proof.Machine

/-! ## What the invariant rests on -/

/-- The engine's job and operation fit another state of the same pages, Census, sequence, job and operation. -/
theorem State.JobFits.congr {s t : State} (h : s.JobFits) (hp : t.pages = s.pages) (hc : t.census = s.census)
    (hn : t.nextSequence = s.nextSequence) (hj : t.job = s.job) (ho : t.op = s.op) : t.JobFits := by
  cases s
  cases t
  dsimp only at hp hc hn hj ho
  subst hp hc hn hj ho
  exact h

theorem State.TablesFit.congr {s t : State} (h : s.TablesFit) (hr : t.records = s.records) (hp : t.pages = s.pages)
    (hc : t.census = s.census) (hn : t.nextSequence = s.nextSequence) (hb : t.badCount = s.badCount) : t.TablesFit :=
  h.of_eq hp hr hc (by rw [hn]) hb

theorem State.DirectoryConsistent.congr {s t : State} (h : s.DirectoryConsistent) (hr : t.records = s.records)
    (hp : t.pages = s.pages) (hc : t.census = s.census) (hn : t.nextSequence = s.nextSequence)
    (hb : t.badCount = s.badCount) (hj : t.job = s.job) (ho : t.op = s.op) : t.DirectoryConsistent :=
  (h.tables.congr hr hp hc hn hb).withJob (h.job.congr hp hc hn hj ho)

/-- A store whose engine is idle. -/
theorem State.TablesFit.idle {s : State} (h : s.TablesFit) (hp : s.PendingOnly fun _ => False) (hj : s.job = .idle)
    (ho : s.op = none) : s.DirectoryConsistent :=
  h.withJob (by simpa only [State.JobFits, hj] using ⟨ho, hp⟩)

theorem State.DirectoryConsistent.idleFits {s : State} (h : s.DirectoryConsistent) (hj : s.job = .idle) :
    s.op = none ∧ s.PendingOnly fun _ => False := by
  simpa only [State.JobFits, hj] using h.job

theorem State.PendingOnly.congr {s t : State} {mine : PageNo → Prop} (h : s.PendingOnly mine) (hp : t.pages = s.pages) :
    t.PendingOnly mine := fun g hg => h g (by rwa [State.page, hp] at hg)

/-- A change of ports, leases, queue or store state alone. -/
theorem State.DirectoryConsistent.enterReadOnly {s : State} (h : s.DirectoryConsistent) (r : ReadOnlyReason) :
    (s.enterReadOnly r).DirectoryConsistent := by
  obtain ⟨_, _, e⟩ := s.enterReadOnly_changes r
  rw [e]
  exact h.congr rfl rfl rfl rfl rfl rfl rfl

/-! ## The end of a job (R32, R58, R78) -/

theorem State.TablesFit.endJob {s : State} (h : s.TablesFit) (hp : s.PendingOnly fun _ => False) :
    s.endJob.DirectoryConsistent := by
  obtain ⟨_, _, _, _, e⟩ := s.endJob_changes
  rw [e]
  refine State.TablesFit.idle ?_ (hp.congr rfl) rfl rfl
  exact h.congr rfl rfl rfl rfl rfl

theorem State.page_dropPending (s : State) (g : PageNo) :
    s.dropPending.page g = if (s.page g).isPending then .stale else s.page g := by
  unfold State.dropPending State.page
  rw [Table.get_map]
  cases s.pages.get g <;> rfl

theorem State.not_pending_dropPending (s : State) : s.dropPending.PendingOnly fun _ => False := by
  intro g hg
  rw [State.page_dropPending] at hg
  split at hg
  · cases hg
  · next h => exact h hg

/-- A PENDING page is neither stored nor retired. -/
theorem PageEntry.of_isPending {e : PageEntry} (h : e.isPending = true) : e.isKept = false ∧ e.isBad = false := by
  cases e with
  | pending _ => exact ⟨rfl, rfl⟩
  | clean => cases h
  | live _ => cases h
  | retained _ => cases h
  | stale => cases h
  | bad => cases h

theorem State.TablesFit.dropPending {s : State} (h : s.TablesFit) : s.dropPending.TablesFit := by
  refine h.of_sameKept (fun g => ?_) rfl rfl le_rfl ?_
  · rw [State.page_dropPending]
    split
    · next hp => exact .inr ⟨(PageEntry.of_isPending hp).1, rfl⟩
    · exact .inl rfl
  · rw [State.badPages_of_same (s := s) fun g => ?_]
    · exact h.bad
    · rw [State.page_dropPending]
      split
      · next hp => rw [(PageEntry.of_isPending hp).2]; rfl
      · rfl

theorem State.TablesFit.relocationMediaFailure {s : State} (h : s.TablesFit) :
    s.relocationMediaFailure.DirectoryConsistent := h.dropPending.endJob s.not_pending_dropPending

theorem State.TablesFit.commitMediaFailure {s : State} (h : s.TablesFit) (p : Port) (token : Token) :
    (s.commitMediaFailure p token).DirectoryConsistent := by
  have freed : (((s.dropPending.onPort p (PortState.failCommit token .media)).notify p
      (.commitFailed token .media none)).endFreeze p).TablesFit := by
    rw [State.endFreeze_eq]
    exact h.dropPending.congr rfl rfl rfl rfl rfl
  exact freed.endJob (s.not_pending_dropPending.congr (by rw [State.endFreeze_eq]; rfl))

/-! ## Allocation (R24) -/

theorem PageEntry.isClean_iff {e : PageEntry} : e.isClean = true ↔ e = .clean := by
  cases e <;> simp [PageEntry.isClean]

theorem PageEntry.isStale_iff {e : PageEntry} : e.isStale = true ↔ e = .stale := by
  cases e <;> simp [PageEntry.isStale]

theorem State.page_allocate (s : State) (g x : PageNo) :
    (s.allocate g).page x = if x = g then .pending none else s.page x := State.page_setPage s g x _

/-- An allocated page was stored nowhere, and takes nothing from the tables (R24). -/
theorem State.sameKept_allocate {s : State} {g : PageNo} (hg : s.page g = .clean) : s.SameKept (s.allocate g) := by
  intro x
  rw [State.page_allocate]
  by_cases e : x = g
  · rw [if_pos e, e, hg]
    exact .inr ⟨rfl, rfl⟩
  · rw [if_neg e]
    exact .inl rfl

theorem State.TablesFit.allocate {s : State} (h : s.TablesFit) {g : PageNo} (hg : s.page g = .clean) :
    (s.allocate g).TablesFit := by
  refine h.of_sameKept (State.sameKept_allocate hg) rfl rfl le_rfl ?_
  rw [State.badPages_of_same (s := s) fun x => ?_]
  · exact h.bad
  · rw [State.page_allocate]
    split
    · next e => rw [e, hg]; rfl
    · rfl

/-- The state in which the program of image `i` on CLEAN page `g` is issued (R24, R56). -/
def State.programs (s : State) (g : PageNo) (i : PageImage) : State := { s.allocate g with op := some (.program g i) }

theorem State.page_programs (s : State) (g : PageNo) (i : PageImage) (x : PageNo) :
    (s.programs g i).page x = if x = g then .pending none else s.page x := s.page_allocate g x

theorem State.TablesFit.programs {s : State} (h : s.TablesFit) {g : PageNo} (hg : s.page g = .clean) (i : PageImage) :
    (s.programs g i).TablesFit := (h.allocate hg).congr rfl rfl rfl rfl rfl

/-! ## The next program of a run (R56, R76) -/

/-- The job carries the run, copying its target if it is a relocation. -/
def State.Carries (s : State) (run : ImageRun) (relocated : Bool) : Prop :=
  match s.job with
  | .commit _ _ _ r => r = run ∧ relocated = false
  | .relocate target r => r = run ∧ relocated = true ∧ s.CopiesTarget target run
  | .idle => False
  | .mount => False
  | .erase _ => False
  | .format _ _ => False

section
variable {s t : State} {run : ImageRun} {relocated : Bool}

theorem State.Carries.of_commit {p : Port} {token : Token} {st : Staging} (h : s.job = .commit p token st run) :
    s.Carries run false := by
  simp only [State.Carries, h, and_self]

theorem State.Carries.of_relocate {target : Sequence} (h : s.job = .relocate target run)
    (hc : s.CopiesTarget target run) : s.Carries run true := by
  simpa only [State.Carries, h, true_and] using hc

theorem State.Carries.jobFits (h : s.Carries run relocated) (hf : s.RunFits run relocated) : s.JobFits := by
  unfold State.Carries at h
  unfold State.JobFits
  cases hj : s.job with
  | commit p token st r =>
    simp only [hj] at h ⊢
    obtain ⟨rfl, rfl⟩ := h
    exact hf
  | relocate target r =>
    simp only [hj] at h ⊢
    obtain ⟨rfl, rfl, copies⟩ := h
    exact ⟨hf, copies⟩
  | idle => simp only [hj] at h
  | mount => simp only [hj] at h
  | erase _ => simp only [hj] at h
  | format _ _ => simp only [hj] at h

/-- The job carries its run still where its job, the Census and the LIVE pages stand. -/
theorem State.Carries.of_live (h : s.Carries run relocated) (hj : t.job = s.job) (hc : t.census = s.census)
    (hp : ∀ g k, s.page g = .live k → t.page g = .live k) : t.Carries run relocated := by
  unfold State.Carries at h ⊢
  rw [hj]
  cases hs : s.job with
  | commit p token st r => simpa only [hs] using h
  | relocate target r =>
    simp only [hs] at h ⊢
    obtain ⟨rfl, rfl, copies⟩ := h
    exact ⟨rfl, rfl, copies.of_live hc rfl rfl hp⟩
  | idle => simp only [hs] at h
  | mount => simp only [hs] at h
  | erase _ => simp only [hs] at h
  | format _ _ => simp only [hs] at h

/-- The run fits where the operation is none and pages, Census and sequence stand. -/
theorem State.RunFits.of_verified (h : s.RunFits run relocated) (ho : s.op = none) (hc : t.census = s.census)
    (hn : t.nextSequence = s.nextSequence)
    (hp : ∀ g ∈ run.verified, t.page g = s.page g)
    (hop : t.op = none ∨ ∃ g i, t.op = some (.program g i) ∧ t.page g = .pending none
      ∧ run.images[run.verified.length]? = some i)
    (hpending : ∀ g, (t.page g).isPending = true → (s.page g).isPending = true ∨ ∃ i, t.op = some (.program g i)) :
    t.RunFits run relocated := by
  obtain ⟨issued, above, few, records, images, verified, -, pending⟩ := h
  refine ⟨hn ▸ issued, hc ▸ above, few, records, images, fun k g hg => ?_, hop, fun g hg => ?_⟩
  · obtain ⟨i, hi, hs⟩ := verified k g hg
    exact ⟨i, hi, (hp g (List.mem_of_getElem? hg)).trans hs⟩
  · rcases hpending g hg with hs | program
    · rcases pending g hs with mem | ⟨i, hi⟩
      · exact .inl mem
      · rw [ho] at hi
        cases hi
    · exact .inr program

/-- The next program of a run, from a state with no operation in progress: suspended or nothing left to program; given up;
or issued on a CLEAN page (R24, R56, R97). -/
theorem State.TablesFit.programNext {fail : State → State} (hs : s.TablesFit) (ho : s.op = none)
    (hf : s.RunFits run relocated) (hj : s.Carries run relocated)
    (hfail : ∀ u : State, u.TablesFit → (fail u).DirectoryConsistent) :
    (s.programNext run fail).DirectoryConsistent := by
  have quiet : ({ s with op := none } : State) = s := by rw [← ho]
  rcases s.programNext_cases run fail with e | ⟨-, -, e⟩ | ⟨i, g, -, hi, hg, e⟩
  · rw [e, quiet]
    exact hs.withJob (hj.jobFits hf)
  · rw [e, quiet]
    exact hfail s hs
  · have clean := PageEntry.isClean_iff.mp (s.findClean_isClean hg)
    have live (x : PageNo) (k : Header) (hx : s.page x = .live k) : (s.programs g i).page x = .live k :=
      (State.sameKept_allocate clean).of_live hx
    have fits : (s.programs g i).RunFits run relocated := by
      refine hf.of_verified ho rfl rfl (fun x hx => ?_) (.inr ⟨g, i, rfl, by rw [State.page_programs, if_pos rfl], hi⟩)
        fun x hx => ?_
      · rw [State.page_programs, if_neg]
        rintro rfl
        obtain ⟨-, -, -, -, -, verified, -, -⟩ := hf
        obtain ⟨k, hk⟩ := List.mem_iff_getElem?.mp hx
        obtain ⟨_, -, pending⟩ := verified k x hk
        rw [clean] at pending
        cases pending
      · rw [State.page_programs] at hx
        split at hx
        · next e => exact .inr ⟨i, by rw [e]; rfl⟩
        · exact .inl hx
    have carries : (s.programs g i).Carries run relocated := hj.of_live rfl rfl live
    rw [e]
    exact (hs.programs clean i).withJob (carries.jobFits fits)

end

/-! ## The start of a commit (R55) -/

/-- An image of record entries carries its fields and its check (R21, R55). -/
theorem State.recordImage_fits (s : State) (q : Sequence) (count k : Nat) (e : StagedEntry) :
    (s.recordImage q count k e).check
        = Config.pageCheck (s.recordImage q count k e).header (s.recordImage q count k e).payload
      ∧ (s.recordImage q count k e).header.record.isSome = true
      ∧ (s.recordImage q count k e).header.version.isSome = true
      ∧ (s.recordImage q count k e).header.sequence = q ∧ (s.recordImage q count k e).header.position = k
      ∧ (s.recordImage q count k e).header.count = count ∧ (s.recordImage q count k e).header.relocated = false
      ∧ (s.recordImage q count k e).header.kind ≠ .epoch := by
  unfold State.recordImage
  cases e.op <;> exact ⟨rfl, rfl, rfl, rfl, rfl, rfl, rfl, nofun⟩

/-- The images of a commit number its positions, carry its sequence and count, and name each record once (R38, R55). -/
theorem State.commitImages_fit (s : State) (q : Sequence) {st : Staging} (h : st.Bounded) :
    (s.commitImages q st).length ≤ 8 ∧ ((s.commitImages q st).map fun i => i.header.record).Nodup
      ∧ (⟨q, s.commitImages q st, [], 0⟩ : ImageRun).ImagesFit false := by
  have layout : [s.layoutImage q st].length ≤ 8 ∧ ([s.layoutImage q st].map fun i => i.header.record).Nodup
      ∧ (⟨q, [s.layoutImage q st], [], 0⟩ : ImageRun).ImagesFit false := by
    refine ⟨by simp, by simp, fun k i hi => ?_⟩
    obtain ⟨rfl, rfl⟩ : k = 0 ∧ s.layoutImage q st = i := by
      cases k with
      | zero => exact ⟨rfl, Option.some.inj hi⟩
      | succ k => cases hi
    exact ⟨rfl, rfl, rfl, rfl, rfl, rfl, rfl, nofun⟩
  cases st with
  | records es =>
    obtain ⟨few, distinct, -⟩ := h
    have length := s.recordImages_length q es.length 1 es
    refine ⟨length ▸ few, ?_, fun k i hi => ?_⟩
    · have records := s.recordImages_records q es.length 1 es
      unfold State.commitImages
      rw [records]
      have := distinct.map (f := fun r => some (tableNo r)) fun a b e => by
        simpa [tableNo, Fin.ext_iff] using e
      rwa [List.map_map] at this
    · have image : (s.recordImages q es.length 1 es)[k]? = some i := hi
      rw [State.recordImages_getElem?, Option.map_eq_some_iff] at image
      obtain ⟨e, -, rfl⟩ := image
      have count : (s.commitImages q (.records es)).length = es.length := length
      rw [count, Nat.add_comm k 1]
      exact s.recordImage_fits q es.length (1 + k) e
  | define w d => exact layout
  | clear w => exact layout

/-- A sequence is left: the next one lies above it (R33, R35). -/
theorem toNat_lt_succ_of_ne_end {q : Sequence} (h : q ≠ Config.sequenceEnd) : q.toNat < (q + 1).toNat := by
  have differs : q ≠ 0xFFFFFFFF := h
  bv_omega

/-- A run whose images are fixed and of which nothing is programmed, with the sequence it takes. -/
theorem State.RunFits.begun {s t : State} {images : List PageImage} {relocated : Bool} (hc : s.CensusExact)
    (hp : s.PendingOnly fun _ => False) (hend : s.nextSequence ≠ Config.sequenceEnd)
    (hn : t.nextSequence = s.nextSequence + 1) (he : t.census = s.census) (hpages : t.pages = s.pages) (ho : t.op = none)
    (few : images.length ≤ 8) (distinct : (images.map fun i => i.header.record).Nodup)
    (fit : (⟨s.nextSequence, images, [], 0⟩ : ImageRun).ImagesFit relocated) :
    t.RunFits ⟨s.nextSequence, images, [], 0⟩ relocated := by
  refine ⟨?_, fun e hm => (hc.2.1 e (he ▸ hm)).1, few, distinct, fit, fun k g hg => (nomatch hg), .inl ho,
    fun g hg => absurd (hp.congr hpages g hg) id⟩
  rw [hn]
  exact toNat_lt_succ_of_ne_end hend

theorem State.DirectoryConsistent.startCommit {s : State} (h : s.DirectoryConsistent) (hj : s.job = .idle)
    {e : QueueEntry} (hb : e.staging.Bounded) : (s.startCommit e).DirectoryConsistent := by
  rw [State.startCommit_eq]
  split
  · exact h.enterReadOnly .sequence
  · next hend =>
    obtain ⟨quiet, nothing⟩ := h.idleFits hj
    obtain ⟨few, distinct, fit⟩ := s.commitImages_fit s.nextSequence hb
    have tables : (s.commitBegun e).TablesFit :=
      h.tables.of_eq rfl rfl rfl (le_of_lt (toNat_lt_succ_of_ne_end hend)) rfl
    exact tables.programNext quiet (.begun h.tables.census nothing hend rfl rfl rfl quiet few distinct fit)
      (.of_commit rfl) fun u hu => hu.commitMediaFailure e.port e.token

/-! ## The start of a relocation (R75) -/

/-- The pages of a Census entry are distinct: each has its own position (R65). -/
theorem State.CensusExact.nodup_pages {s : State} (hc : s.CensusExact) {e : CensusEntry} (he : e ∈ s.census) :
    (e.pages.map CensusPage.page).Nodup := by
  rw [List.nodup_iff_injective_get]
  intro a b hab
  have at_ (k : Fin (e.pages.map CensusPage.page).length) : ∃ x, e.pages[k.val]? = some x
      ∧ (e.pages.map CensusPage.page).get k = x.page := by
    have lt : k.val < e.pages.length := by simpa using k.isLt
    exact ⟨e.pages[k.val], List.getElem?_eq_getElem lt, by simp⟩
  obtain ⟨x, hx, ex⟩ := at_ a
  obtain ⟨y, hy, ey⟩ := at_ b
  obtain ⟨d, hd, -, hda, -⟩ := (hc.2.1 e he).2.2.2 a.val x hx
  obtain ⟨f, hf, -, hfb, -⟩ := (hc.2.1 e he).2.2.2 b.val y hy
  have page : x.page = y.page := ex.symm.trans (hab.trans ey)
  have same : x = y := (hc.eq_of_page he he (List.mem_of_getElem? hx) (List.mem_of_getElem? hy) page).2
  rw [same, hf] at hd
  have : d = f := by
    cases hl : y.live <;> simp only [hl, if_true, Bool.false_eq_true, if_false] at hd
    · exact (PageEntry.retained.inj hd).symm
    · exact (PageEntry.live.inj hd).symm
  rw [this] at hda
  exact Fin.ext (by omega)

/-- A LIVE page gives an image (R75). -/
theorem State.copyImages_cons {s : State} {g : PageNo} {h : Header} (hg : s.page g = .live h) (q : Sequence)
    (count k : Nat) (rest : List PageNo) :
    s.copyImages q count k (g :: rest) = s.copyImage q k count h :: s.copyImages q count (k + 1) rest := by
  simp only [State.copyImages, hg, PageEntry.header]

theorem State.copyImages_length {s : State} (q : Sequence) (count k : Nat) {l : List PageNo}
    (hl : ∀ g ∈ l, ∃ h, s.page g = .live h) : (s.copyImages q count k l).length = l.length := by
  induction l generalizing k with
  | nil => rfl
  | cons g rest ih =>
    obtain ⟨h, hg⟩ := hl g List.mem_cons_self
    rw [State.copyImages_cons hg, List.length_cons, ih _ fun x hx => hl x (List.mem_cons_of_mem _ hx),
      List.length_cons]

/-- The images that a relocation programs for LIVE pages, position by position (R75). -/
theorem State.copyImages_getElem? (s : State) (q : Sequence) (count k : Nat) (l : List PageNo)
    (hl : ∀ g ∈ l, ∃ h, s.page g = .live h) (j : Nat) :
    (s.copyImages q count k l)[j]? = l[j]?.bind fun g => (s.page g).header.map (s.copyImage q (k + j) count) := by
  induction l generalizing k j with
  | nil => rfl
  | cons g rest ih =>
    obtain ⟨h, hg⟩ := hl g List.mem_cons_self
    rw [State.copyImages_cons hg]
    cases j with
    | zero => simp [hg, PageEntry.header]
    | succ j =>
      rw [List.getElem?_cons_succ, List.getElem?_cons_succ, ih _ fun x hx => hl x (List.mem_cons_of_mem _ hx),
        Nat.add_assoc, Nat.add_comm 1 j]

section
variable {s : State} (hb : s.RecordsBacked) (hc : s.CensusExact) {e : CensusEntry} (he : e ∈ s.census)

include hc he in
theorem State.CensusExact.live_of_mem {x : CensusPage} (hx : x ∈ e.pages.filter CensusPage.live) :
    ∃ h, s.page x.page = .live h := by
  obtain ⟨mem, live⟩ := CensusEntry.mem_filter_live.mp hx
  obtain ⟨h, hp, -⟩ := hc.page_of_mem he mem
  exact ⟨h, by rw [hp, live]; rfl⟩

include hc he in
theorem State.CensusExact.live_of_livePageNos (g : PageNo) (hg : g ∈ e.livePageNos) : ∃ h, s.page g = .live h := by
  obtain ⟨x, hx, rfl⟩ := List.mem_map.mp hg
  exact hc.live_of_mem he hx

theorem CensusEntry.length_livePageNos (e : CensusEntry) : e.livePageNos.length = e.live := by
  rw [CensusEntry.livePageNos, List.length_map, e.live_eq_length_filter]

include hb hc he

/-- The image of a LIVE page: the fields of its header but for sequence, position, count and relocated flag (R75). -/
theorem State.copyImages_of_live {q : Sequence} {k : Nat} {x : CensusPage}
    (hx : (e.pages.filter CensusPage.live)[k]? = some x) :
    ∃ h r, s.page x.page = .live h ∧ h.record = some r ∧ (s.record r).backing = some (x.page, h.sequence)
      ∧ h.version = some (s.record r).version ∧ h.kind ≠ .epoch
      ∧ (s.copyImages q e.livePageNos.length 1 e.livePageNos)[k]?
        = some (.checked { h with sequence := q, position := k + 1, count := e.live, relocated := true }
          (s.record r).payload) := by
  obtain ⟨h, hp⟩ := hc.live_of_mem he (List.mem_of_getElem? hx)
  obtain ⟨r, hr, hq⟩ := hb.2 _ h hp
  obtain ⟨h', hp', -, hv, -, hk, -⟩ := hb.1 r _ _ hq
  obtain rfl := PageEntry.live.inj (hp.symm.trans hp')
  refine ⟨h, r, hp, hr, hq, hv, hk, ?_⟩
  have page : e.livePageNos[k]? = some x.page := by
    rw [CensusEntry.livePageNos, List.getElem?_map, hx]
    rfl
  rw [State.copyImages_getElem? _ _ _ _ _ (hc.live_of_livePageNos he), page, Option.bind_some, hp, e.length_livePageNos]
  simp only [PageEntry.header, Option.map_some, State.copyImage, hr, Option.getD_some, hv, Nat.add_comm 1 k]

/-- The image at a position of a relocation, with the page it copies (R75). -/
theorem State.copyImages_cases {q : Sequence} {k : Nat} {i : PageImage}
    (hi : (s.copyImages q e.livePageNos.length 1 e.livePageNos)[k]? = some i) :
    ∃ x h r, (e.pages.filter CensusPage.live)[k]? = some x ∧ s.page x.page = .live h ∧ h.record = some r
      ∧ (s.record r).backing = some (x.page, h.sequence) ∧ h.version = some (s.record r).version ∧ h.kind ≠ .epoch
      ∧ i = .checked { h with sequence := q, position := k + 1, count := e.live, relocated := true }
        (s.record r).payload := by
  have lt : k < (e.pages.filter CensusPage.live).length := by
    have := (List.getElem?_eq_some_iff.mp hi).1
    rwa [State.copyImages_length _ _ _ (hc.live_of_livePageNos he), e.length_livePageNos,
      e.live_eq_length_filter] at this
  obtain ⟨h, r, hp, hr, hq, hv, hk, image⟩ := State.copyImages_of_live hb hc he (List.getElem?_eq_getElem lt) (q := q)
  exact ⟨_, h, r, List.getElem?_eq_getElem lt, hp, hr, hq, hv, hk, Option.some.inj (hi.symm.trans image)⟩

/-- The images of a relocation number its positions, carry its sequence and count, and name each record once (R75). -/
theorem State.copyImages_fit (q : Sequence) :
    (s.copyImages q e.livePageNos.length 1 e.livePageNos).length ≤ 8
      ∧ ((s.copyImages q e.livePageNos.length 1 e.livePageNos).map fun i => i.header.record).Nodup
      ∧ (⟨q, s.copyImages q e.livePageNos.length 1 e.livePageNos, [], 0⟩ : ImageRun).ImagesFit true := by
  have length : (s.copyImages q e.livePageNos.length 1 e.livePageNos).length = e.live := by
    rw [State.copyImages_length _ _ _ (hc.live_of_livePageNos he), e.length_livePageNos]
  have few : e.live ≤ 8 := le_trans List.countP_le_length (hc.2.1 e he).2.2.1
  refine ⟨length ▸ few, ?_, fun k i hi => ?_⟩
  · rw [List.nodup_iff_getElem?_ne_getElem?]
    intro a b hab hb' same
    rw [List.length_map] at hb'
    rw [List.getElem?_map, List.getElem?_map, List.getElem?_eq_getElem (lt_trans hab hb'),
      List.getElem?_eq_getElem hb'] at same
    obtain ⟨x, h, r, hx, -, hr, hq, -, -, hi⟩ :=
      State.copyImages_cases hb hc he (List.getElem?_eq_getElem (lt_trans hab hb'))
    obtain ⟨y, h', r', hy, -, hr', hq', -, -, hi'⟩ := State.copyImages_cases hb hc he (List.getElem?_eq_getElem hb')
    rw [hi, hi'] at same
    have record : h.record = h'.record := Option.some.inj same
    obtain rfl : r = r' := Option.some.inj (hr.symm.trans (record.trans hr'))
    rw [hq] at hq'
    have page : x.page = y.page := (Prod.mk.inj (Option.some.inj hq')).1
    have nodup : ((e.pages.filter CensusPage.live).map CensusPage.page).Nodup :=
      (hc.nodup_pages he).sublist (List.filter_sublist.map _)
    have at_a : ((e.pages.filter CensusPage.live).map CensusPage.page)[a]? = some x.page := by
      rw [List.getElem?_map, hx]
      rfl
    have at_b : ((e.pages.filter CensusPage.live).map CensusPage.page)[b]? = some y.page := by
      rw [List.getElem?_map, hy]
      rfl
    exact List.nodup_iff_getElem?_ne_getElem?.mp nodup a b hab (List.getElem?_eq_some_iff.mp at_b).1
      (at_a.trans (page ▸ at_b.symm))
  · obtain ⟨x, h, r, -, -, hr, -, hv, hk, rfl⟩ := State.copyImages_cases hb hc he hi
    exact ⟨rfl, by rw [PageImage.checked, hr]; rfl, by rw [PageImage.checked, hv]; rfl, rfl, rfl, length.symm, rfl, hk⟩

theorem State.copyImages_copies (q : Sequence) :
    s.CopiesTarget e.sequence ⟨q, s.copyImages q e.livePageNos.length 1 e.livePageNos, [], 0⟩ := by
  refine ⟨e, he, rfl, ?_, fun k x hx => ?_⟩
  · exact (State.copyImages_length _ _ _ (hc.live_of_livePageNos he)).trans e.length_livePageNos
  · obtain ⟨h, r, hp, -, -, -, -, image⟩ := State.copyImages_of_live hb hc he hx (q := q)
    exact ⟨h, _, hp, image, rfl⟩

end

theorem State.DirectoryConsistent.startRelocation {s : State} (h : s.DirectoryConsistent) (hj : s.job = .idle)
    {e : CensusEntry} (he : e ∈ s.census) : (s.startRelocation e).DirectoryConsistent := by
  rw [State.startRelocation_eq]
  split
  · exact h.enterReadOnly .sequence
  · next hend =>
    obtain ⟨quiet, nothing⟩ := h.idleFits hj
    obtain ⟨few, distinct, fit⟩ := State.copyImages_fit h.tables.backed h.tables.census he s.nextSequence
    have copies := State.copyImages_copies h.tables.backed h.tables.census he s.nextSequence
    have tables : (s.relocationBegun e).TablesFit :=
      h.tables.of_eq rfl rfl rfl (le_of_lt (toNat_lt_succ_of_ne_end hend)) rfl
    exact tables.programNext quiet (.begun h.tables.census nothing hend rfl rfl rfl quiet few distinct fit)
      (.of_relocate rfl (copies.of_live rfl rfl rfl fun _ _ => id)) fun u hu => hu.relocationMediaFailure

/-! ## The job choice (R53, R69 to R73) -/

theorem State.page_issueErase (s : State) (g x : PageNo) : (s.issueErase g).page x = s.page x := by
  rw [State.issueErase_changes]
  rfl

theorem State.DirectoryConsistent.startErase {s : State} (h : s.DirectoryConsistent) (hj : s.job = .idle) {g : PageNo}
    (hg : s.page g = .stale) : (s.startErase g).DirectoryConsistent := by
  rw [State.startErase_changes]
  refine State.TablesFit.withJob (h.tables.congr rfl rfl rfl rfl rfl) ?_
  refine ⟨hg, ?_, (h.idleFits hj).2.congr rfl⟩
  cases s.pfw
  · exact .inr rfl
  · exact .inl rfl

theorem State.Reclaims.directory {s t : State} (h : s.Reclaims t) (hd : s.DirectoryConsistent) (hj : s.job = .idle) :
    t.DirectoryConsistent := by
  cases h with
  | erase hg => exact hd.startErase hj (PageEntry.isStale_iff.mp (s.lowestStale_isStale hg))
  | relocate he => exact hd.startRelocation hj (List.mem_of_find?_eq_some he)
  | nothing => exact hd.congr rfl rfl rfl rfl rfl hj.symm (hd.idleFits hj).1.symm
  | space => exact hd.enterReadOnly .space

theorem State.TakesUp.directory {s t : State} {l : List QueueEntry} (h : State.TakesUp s l t)
    (hd : s.DirectoryConsistent) (hj : s.job = .idle) (hb : ∀ e ∈ l, e.staging.Bounded) : t.DirectoryConsistent := by
  induction h with
  | reclaims h => exact h.directory hd hj
  | starts _ => exact hd.startCommit hj (hb _ List.mem_cons_self)
  | @fails s t e rest r record _ ih =>
    obtain ⟨_, _, failed⟩ := s.failQueued_changes e r record true
    refine ih ?_ ((s.failQueued_job e r record true).trans hj) fun x hx => hb x (List.mem_cons_of_mem _ hx)
    rw [failed]
    exact hd.congr rfl rfl rfl rfl rfl rfl rfl

/-- The staging lists of the queue are those of its ports, so they are bounded (R38, R50). -/
theorem State.bounded_of_mem_queue {s : State} (hq : s.QueueConsistent) (hb : s.StagingBounded) {e : QueueEntry}
    (he : e ∈ s.queue) : e.staging.Bounded := by
  obtain ⟨-, -, staged, -⟩ := hq
  obtain ⟨-, same⟩ := staged e he
  exact same ▸ hb e.port

end Sys2Proof.Machine
end

section
/-! SUPPORT. O57: the verdicts of programs and erases, and the format. -/

namespace Sys2Proof.Machine

/-! ## A page that holds nothing stored changes (R27, R28) -/

section
variable {s : State} {g : PageNo} (h : s.TablesFit) (hk : (s.page g).isKept = false) (hb : (s.page g).isBad = false)
include h hk hb

theorem State.TablesFit.setClean : (s.setPage g .clean).TablesFit := by
  refine h.of_sameKept (fun x => ?_) rfl rfl le_rfl ?_
  · rw [State.page_setPage]
    by_cases e : x = g
    · rw [if_pos e, e]
      exact .inr ⟨hk, rfl⟩
    · rw [if_neg e]
      exact .inl rfl
  · rw [State.badPages_of_same (s := s) fun x => ?_]
    · exact h.bad
    · rw [State.page_setPage]
      split
      · next e => rw [e, hb]; rfl
      · rfl

theorem State.TablesFit.retire : (s.retire g).TablesFit := by
  have page (x : PageNo) : (s.retire g).page x = if x = g then .bad else s.page x := s.page_setPage g x .bad
  refine h.of_sameKept (fun x => ?_) rfl rfl le_rfl ?_
  · rw [page]
    by_cases e : x = g
    · rw [if_pos e, e]
      exact .inr ⟨hk, rfl⟩
    · rw [if_neg e]
      exact .inl rfl
  · have := h.bad
    rw [State.badPages_of_retire (s := s) (g := g) hb (by rw [page, if_pos rfl]) fun x hx => by rw [page, if_neg hx],
      ← this]
    rfl

theorem State.TablesFit.settleErase (v : EraseVerdict) : (s.settleErase g v).TablesFit := by
  cases v with
  | erased => exact h.setClean hk hb
  | failed _ => exact h.retire hk hb

end

/-- What the verdict of an erase makes of the page (R28). -/
def erasedEntry : EraseVerdict → PageEntry
  | .erased => .clean
  | .failed _ => .bad

theorem State.page_settleErase (s : State) (g : PageNo) (v : EraseVerdict) (x : PageNo) :
    (s.settleErase g v).page x = if x = g then erasedEntry v else s.page x := by
  cases v <;> exact s.page_setPage g x _

theorem erasedEntry_facts (v : EraseVerdict) :
    (erasedEntry v).isKept = false ∧ (erasedEntry v).isPending = false
      ∧ ((erasedEntry v).isClean = true ∨ (erasedEntry v).isBad = true) := by
  cases v <;> exact ⟨rfl, rfl, by simp [erasedEntry, PageEntry.isClean, PageEntry.isBad]⟩

/-- A settled erase leaves no page PENDING that was not. -/
theorem State.PendingOnly.settleErase {s : State} {mine : PageNo → Prop} {g : PageNo} {v : EraseVerdict}
    (h : ∀ x, x ≠ g → (s.page x).isPending = true → mine x) : (s.settleErase g v).PendingOnly mine := by
  intro x hx
  rw [State.page_settleErase] at hx
  split at hx
  · rw [(erasedEntry_facts v).2.1] at hx
    cases hx
  · next e => exact h x e hx

/-! ## A program that fails (R27, R57, R76) -/

section
variable {s : State} {run : ImageRun} {relocated : Bool} {g : PageNo} {i : PageImage}

theorem State.page_programFailed (s : State) (g : PageNo) (mark : MarkOutcome) (x : PageNo) :
    (s.programFailed g mark).page x = if x = g then .bad else s.page x := State.page_setPage _ g x _

theorem State.TablesFit.programFailed (h : s.TablesFit) (hp : s.page g = .pending none) (mark : MarkOutcome) :
    (s.programFailed g mark).TablesFit := by
  have written : (s.setArray g (markContent mark)).TablesFit := h.congr rfl rfl rfl rfl rfl
  have page : (s.setArray g (markContent mark)).page g = .pending none := hp
  exact (written.retire (by rw [page]; rfl) (by rw [page]; rfl)).congr rfl rfl rfl rfl rfl

/-- A failed program leaves the verified positions of the run (R57, R76). -/
theorem State.RunFits.programFailed (h : s.RunFits run relocated) (ho : s.op = some (.program g i))
    (mark : MarkOutcome) : (s.programFailed g mark).RunFits run relocated := by
  have fresh := h.not_mem_verified (h.program ho).1
  obtain ⟨issued, above, few, records, images, verified, -, pending⟩ := h
  refine ⟨issued, above, few, records, images, fun k x hx => ?_, .inl rfl, fun x hx => .inl ?_⟩
  · obtain ⟨j, hj, hp⟩ := verified k x hx
    have : x ≠ g := fun e => fresh (e ▸ List.mem_of_getElem? hx)
    exact ⟨j, hj, by rw [State.page_programFailed, if_neg this, hp]⟩
  · rw [State.page_programFailed] at hx
    split at hx
    · cases hx
    · next e =>
      rcases pending x hx with mem | ⟨j, hj⟩
      · exact mem
      · rw [ho] at hj
        cases hj
        exact absurd rfl e

theorem State.live_programFailed (hp : s.page g = .pending none) (mark : MarkOutcome) (x : PageNo) (d : Header)
    (hx : s.page x = .live d) : (s.programFailed g mark).page x = .live d := by
  have : x ≠ g := by
    rintro rfl
    rw [hp] at hx
    cases hx
  rw [State.page_programFailed, if_neg this, hx]

/-- The run fits a state of the same pages, Census, sequence and operation. -/
theorem State.RunFits.congr {t : State} (h : s.RunFits run relocated) (hp : t.pages = s.pages) (hc : t.census = s.census)
    (hn : t.nextSequence = s.nextSequence) (ho : t.op = s.op) : t.RunFits run relocated := by
  cases s
  cases t
  dsimp only at hp hc hn ho
  subst hp hc hn ho
  exact h

/-- With its last program in progress a run has every other position verified. -/
theorem State.RunFits.length_of_complete (h : s.RunFits run relocated) (ho : s.op = some (.program g i))
    (complete : (run.verify g).complete = true) : run.images.length = run.verified.length + 1 := by
  obtain ⟨-, next⟩ := h.program ho
  have below := (List.getElem?_eq_some_iff.mp next).1
  simp only [ImageRun.complete, ImageRun.verify, List.length_append, List.length_singleton, decide_eq_true_eq] at complete
  omega

theorem State.RunFits.imagesFit (h : s.RunFits run relocated) : run.ImagesFit relocated := by
  obtain ⟨-, -, -, -, images, -⟩ := h
  exact images

end

/-! ## A run goes on, or is complete (R56, R59, R76, R77) -/

section
variable {s : State} {run : ImageRun} {relocated : Bool} {g : PageNo} {i : PageImage}
  (hs : s.TablesFit) (ho : s.op = some (.program g i))
include hs ho

/-- The engine is free after the completion of a run (R59, R66, R77). -/
theorem State.RunFits.completedEnds (hf : s.RunFits run relocated) (hl : run.images.length = run.verified.length + 1)
    (hcarry : ∀ j ∈ run.images, ∀ r, j.header.record = some r → (s.record r).CarriedBy j) :
    (s.runCompleted run g i).TablesFit ∧ (s.runCompleted run g i).PendingOnly fun _ => False := by
  have tables := hf.tablesPassed ho hs
  exact ⟨tables.completed (hf.lastPassed ho hl) hcarry (by simp),
    State.completed_pending tables.backed tables.census (hf.lastPassed ho hl)⟩

theorem State.TablesFit.commitPassed (hf : s.RunFits run false) (p : Port) (token : Token) (st : Staging) :
    ((s.programPassed g i).commitPassed p token st (run.verify g)).DirectoryConsistent := by
  unfold State.commitPassed
  split
  · next complete =>
    obtain ⟨tables, nothing⟩ := State.RunFits.completedEnds hs ho hf (hf.length_of_complete ho complete)
      fun j hj r _ relocated => by
        obtain ⟨k, hk⟩ := List.mem_iff_getElem?.mp hj
        obtain ⟨-, -, -, -, -, -, notRelocated, -⟩ := hf.imagesFit k j hk
        rw [notRelocated] at relocated
        cases relocated
    obtain ⟨_, _, _, announced⟩ := ((s.runCompleted run g i).commitTold p token st run.sequence).announce_changes p st
      (run.verify g)
    have point : (s.programPassed g i).commitPoint p token st (run.verify g)
        = ((((s.runCompleted run g i).commitTold p token st run.sequence).announce p st (run.verify g)).endFreeze p).endJob :=
      rfl
    rw [point, State.endFreeze_eq, announced]
    refine State.TablesFit.endJob (tables.congr rfl rfl rfl rfl rfl) (nothing.congr rfl)
  · refine State.TablesFit.programNext ((hf.tablesPassed ho hs).congr rfl rfl rfl rfl rfl) rfl
      ((hf.programPassed ho).congr rfl rfl rfl rfl) (.of_commit rfl) fun u hu => hu.commitMediaFailure p token

theorem State.TablesFit.relocationPassed {target : Sequence} (hf : s.RunFits run true)
    (hc : s.CopiesTarget target run) :
    ((s.programPassed g i).relocationPassed target (run.verify g)).DirectoryConsistent := by
  unfold State.relocationPassed
  split
  · next complete =>
    obtain ⟨tables, nothing⟩ := State.RunFits.completedEnds hs ho hf (hf.length_of_complete ho complete) fun j hj r hr => hc.carried hs.backed hj hr
    exact State.TablesFit.endJob tables nothing
  · refine State.TablesFit.programNext ((hf.tablesPassed ho hs).congr rfl rfl rfl rfl rfl) rfl
      ((hf.programPassed ho).congr rfl rfl rfl rfl) (.of_relocate rfl ((hf.copiesPassed ho hc).of_live rfl rfl rfl fun _ _ => id))
      fun u hu => hu.relocationMediaFailure

theorem State.TablesFit.commitFailed (hf : s.RunFits run false) (mark : MarkOutcome) (p : Port) (token : Token)
    (st : Staging) : ((s.programFailed g mark).commitFailed p token st run).DirectoryConsistent := by
  have tables := hs.programFailed (hf.program ho).1 mark
  unfold State.commitFailed
  split
  · exact State.TablesFit.programNext (tables.congr rfl rfl rfl rfl rfl) rfl
      ((hf.programFailed ho mark).congr rfl rfl rfl rfl) (.of_commit rfl) fun u hu => hu.commitMediaFailure p token
  · exact tables.commitMediaFailure p token

theorem State.TablesFit.relocationFailed {target : Sequence} (hf : s.RunFits run true)
    (hc : s.CopiesTarget target run) (mark : MarkOutcome) :
    ((s.programFailed g mark).relocationFailed target run).DirectoryConsistent := by
  have tables := hs.programFailed (hf.program ho).1 mark
  unfold State.relocationFailed
  split
  · exact State.TablesFit.programNext (tables.congr rfl rfl rfl rfl rfl) rfl
      ((hf.programFailed ho mark).congr rfl rfl rfl rfl)
      (.of_relocate rfl (hc.of_live rfl rfl rfl (State.live_programFailed (hf.program ho).1 mark)))
      fun u hu => hu.relocationMediaFailure
  · exact tables.relocationMediaFailure

end

end Sys2Proof.Machine
end

section
/-! SUPPORT. O57: the format keeps the Directory (R29, R166, R167, R168). -/

namespace Sys2Proof.Machine

/-! ## The second step (R167) -/

/-- The second step may go on from page `next`: what has been passed is noted, and no page is PENDING but the epoch page. -/
structure State.SweepReady (s : State) (next : Nat) (epochPage : Option PageNo) (noted : List NotedErase) : Prop where
  nodup : (noted.map NotedErase.page).Nodup
  kept : ∀ n ∈ noted, (s.page n.page).isKept = true
  below : s.NotedBelow next noted
  passed : ∀ n ∈ noted, n.page.val < next
  pending : s.PendingOnly fun g => epochPage = some g
  epoch : ∀ g, epochPage = some g → s.page g = .stale ∨ ∃ h, s.page g = .pending (some h)

theorem State.SweepReady.congr {s t : State} {next : Nat} {epochPage : Option PageNo} {noted : List NotedErase}
    (h : s.SweepReady next epochPage noted) (hp : t.pages = s.pages) : t.SweepReady next epochPage noted := by
  have page (g : PageNo) : t.page g = s.page g := by rw [State.page, hp]; rfl
  refine ⟨h.nodup, fun n hn => page _ ▸ h.kept n hn, fun g hg hk => h.below g hg (page g ▸ hk), h.passed,
    h.pending.congr hp, fun g hg => page g ▸ h.epoch g hg⟩

/-- The next page of the second step is none of the epoch page's, CLEAN or BAD (R167). -/
theorem State.sweepTarget_eq_some {s : State} {next : Nat} {epochPage : Option PageNo} {g : PageNo}
    (h : s.sweepTarget next epochPage = some g) :
    next ≤ g.val ∧ (s.page g).isClean = false ∧ (s.page g).isBad = false ∧ epochPage ≠ some g := by
  have := List.find?_some h
  simpa [and_assoc] using this

/-- No page but the epoch page stands CLEAN or BAD between where the second step looks and the page it finds. -/
theorem State.sweepTarget_passes {s : State} {next : Nat} {epochPage : Option PageNo} {g : PageNo}
    (h : s.sweepTarget next epochPage = some g) {x : PageNo} (hx : x < g) (hn : next ≤ x.val) :
    (s.page x).isClean = true ∨ (s.page x).isBad = true ∨ epochPage = some x := by
  obtain ⟨-, before, after, split, none⟩ := List.find?_eq_some_iff_append.mp h
  have mem : x ∈ before := by
    have hm : x ∈ before ++ g :: after := split ▸ List.mem_finRange x
    have sorted : (before ++ g :: after).Pairwise (· < ·) := split ▸ List.pairwise_lt_finRange 320
    rcases List.mem_append.mp hm with hm | hm
    · exact hm
    · exfalso
      rcases List.mem_cons.mp hm with rfl | hm
      · exact lt_irrefl _ hx
      · have := (List.pairwise_cons.mp (List.pairwise_append.mp sorted).2.1).1 x hm
        exact lt_asymm hx this
  have := none x mem
  simp only [hn, decide_true, Bool.true_and, Bool.not_eq_true', Bool.and_eq_false_iff, Bool.not_eq_false', bne_eq_false_iff_eq] at this
  tauto

theorem State.sweepTarget_eq_none {s : State} {next : Nat} {epochPage : Option PageNo}
    (h : s.sweepTarget next epochPage = none) {x : PageNo} (hn : next ≤ x.val) :
    (s.page x).isClean = true ∨ (s.page x).isBad = true ∨ epochPage = some x := by
  have := List.find?_eq_none.mp h x (List.mem_finRange x)
  simp only [hn, decide_true, Bool.true_and, Bool.and_eq_true, Bool.not_eq_true', bne_iff_ne, ne_eq, not_and, not_not] at this
  by_cases clean : (s.page x).isClean = true
  · exact .inl clean
  · by_cases bad : (s.page x).isBad = true
    · exact .inr (.inl bad)
    · exact .inr (.inr (this ⟨by simpa using clean, by simpa using bad⟩))

/-- A CLEAN or BAD page, or the epoch page, is not stored. -/
theorem State.SweepReady.not_kept {s : State} {next : Nat} {epochPage : Option PageNo} {noted : List NotedErase}
    (h : s.SweepReady next epochPage noted) {x : PageNo}
    (hx : (s.page x).isClean = true ∨ (s.page x).isBad = true ∨ epochPage = some x) : (s.page x).isKept = false := by
  rcases hx with e | e | e
  · cases hp : s.page x <;> simp [hp, PageEntry.isClean] at e
    rfl
  · cases hp : s.page x <;> simp [hp, PageEntry.isBad] at e
    rfl
  · rcases h.epoch x e with hp | ⟨_, hp⟩ <;> rw [hp] <;> rfl

/-- With no page left to erase every stored page is noted (R167). -/
theorem State.SweepReady.all_noted {s : State} {next : Nat} {epochPage : Option PageNo} {noted : List NotedErase}
    (h : s.SweepReady next epochPage noted) (hn : s.sweepTarget next epochPage = none) (g : PageNo)
    (hg : (s.page g).isKept = true) : g ∈ noted.map NotedErase.page := by
  by_cases lt : g.val < next
  · exact h.below g lt ((PageEntry.isKept_iff _).mp hg)
  · have := h.not_kept (State.sweepTarget_eq_none hn (Nat.le_of_not_lt lt))
    rw [hg] at this
    cases this

/-! ## The end of the format (R29, R168) -/

/-- What becomes of the noted pages: each CLEAN or BAD, and the bad count is right (R29). -/
theorem State.settleNoted_pages (s : State) (noted : List NotedErase) (nodup : (noted.map NotedErase.page).Nodup)
    (kept : ∀ n ∈ noted, (s.page n.page).isBad = false)
    (hb : s.badCount = (allPages.filter fun g => (s.page g).isBad).length) :
    (s.settleNoted noted).badCount = (allPages.filter fun g => ((s.settleNoted noted).page g).isBad).length
      ∧ (∀ n ∈ noted, (s.settleNoted noted).page n.page = if n.erased then .clean else .bad)
      ∧ ∀ g, g ∉ noted.map NotedErase.page → (s.settleNoted noted).page g = s.page g := by
  induction noted generalizing s with
  | nil => exact ⟨hb, fun n hn => absurd hn List.not_mem_nil, fun _ _ => rfl⟩
  | cons n rest ih =>
    obtain ⟨notIn, nodup'⟩ := List.nodup_cons.mp nodup
    have old := kept n List.mem_cons_self
    have step : s.settleNoted (n :: rest)
        = (if n.erased then s.setPage n.page .clean else s.retire n.page).settleNoted rest := rfl
    have page (x : PageNo) : (if n.erased then s.setPage n.page .clean else s.retire n.page).page x
        = if x = n.page then (if n.erased then .clean else .bad) else s.page x := by
      cases n.erased <;> exact s.page_setPage n.page x _
    have count : (if n.erased then s.setPage n.page .clean else s.retire n.page).badCount
        = (allPages.filter fun g =>
          ((if n.erased then s.setPage n.page .clean else s.retire n.page).page g).isBad).length := by
      cases he : n.erased with
      | true =>
        simp only [he, if_true] at page ⊢
        rw [State.badPages_of_same (s := s) fun g => ?_]
        · exact hb
        · rw [page]
          split
          · next e => rw [e, old]; rfl
          · rfl
      | false =>
        simp only [he, Bool.false_eq_true, if_false] at page ⊢
        rw [State.badPages_of_retire (s := s) old (by rw [page, if_pos rfl]) fun x hx => by rw [page, if_neg hx], ← hb]
        rfl
    rw [step]
    obtain ⟨bad, settled, others⟩ := ih _ nodup' (fun m hm => by
      have other : m.page ≠ n.page := fun e => notIn (e ▸ List.mem_map_of_mem hm)
      rw [page, if_neg other]
      exact kept m (List.mem_cons_of_mem _ hm)) count
    refine ⟨bad, fun m hm => ?_, fun g hg => ?_⟩
    · rcases List.mem_cons.mp hm with rfl | hm
      · rw [others _ notIn, page, if_pos rfl]
      · exact settled m hm
    · rw [List.map_cons, List.mem_cons, not_or] at hg
      rw [others g hg.2, page, if_neg hg.1]

theorem PageEntry.not_isBad_of_isKept {e : PageEntry} (h : e.isKept = true) : e.isBad = false := by
  cases e <;> simp [PageEntry.isKept, PageEntry.isLive, PageEntry.isRetained] at h <;> rfl

section
variable {s : State} {noted : List NotedErase} (hb : s.badCount = (allPages.filter fun g => (s.page g).isBad).length)
  (nodup : (noted.map NotedErase.page).Nodup) (kept : ∀ n ∈ noted, (s.page n.page).isKept = true)
include hb nodup kept

/-- The pages after the end of a format (R29, R168). -/
theorem State.page_formatEnd :
    (∀ n ∈ noted, (s.formatEnd noted).page n.page = if n.erased then .clean else .bad)
      ∧ ∀ g, g ∉ noted.map NotedErase.page → (s.formatEnd noted).page g = s.page g := by
  obtain ⟨-, settled, others⟩ :=
    s.settleNoted_pages noted nodup (fun n hn => PageEntry.not_isBad_of_isKept (kept n hn)) hb
  exact ⟨settled, others⟩

/-- The format ends with nothing stored, nothing PENDING and the engine free (R168). -/
theorem State.formatEnd_directory (all : ∀ g, (s.page g).isKept = true → g ∈ noted.map NotedErase.page)
    (nothing : s.PendingOnly fun _ => False) : (s.formatEnd noted).DirectoryConsistent := by
  obtain ⟨bad, -, -⟩ :=
    s.settleNoted_pages noted nodup (fun n hn => PageEntry.not_isBad_of_isKept (kept n hn)) hb
  obtain ⟨settled, others⟩ := State.page_formatEnd hb nodup kept
  have ended := s.formatEnd_ended noted
  have page (g : PageNo) :
      ((s.formatEnd noted).page g).isKept = false ∧ ((s.formatEnd noted).page g).isPending = false := by
    by_cases hg : g ∈ noted.map NotedErase.page
    · obtain ⟨n, hn, rfl⟩ := List.mem_map.mp hg
      rw [settled n hn]
      cases n.erased <;> exact ⟨rfl, rfl⟩
    · rw [others g hg]
      exact ⟨by simpa using fun hk => hg (all g hk), by simpa using fun hp => nothing g hp⟩
  have tables : (s.formatEnd noted).TablesFit := by
    refine ⟨⟨fun r g q hq => ?_, fun g k hk => ?_⟩, ⟨?_, fun e he => ?_, fun g hg => ?_⟩, bad⟩
    · rw [State.record, ended.records, Table.get_fill] at hq
      cases hq
    · have := (page g).1
      rw [hk] at this
      cases this
    · rw [ended.census]
      exact List.Pairwise.nil
    · rw [ended.census] at he
      cases he
    · have := (page g).1
      rw [(PageEntry.isKept_iff _).mpr hg] at this
      cases this
  refine tables.idle (fun g hg => ?_) ended.job ended.op
  rw [(page g).2] at hg
  cases hg

end

section
variable {s t : State} (hs : s.TablesFit)
include hs

/-- An erase is issued, or it waits while PFW is asserted (R73, R97). -/
theorem State.TablesFit.issueErase {g : PageNo}
    (h : ∀ op, op = none ∨ op = some (.erase g) → ({ s with op := op } : State).JobFits) :
    (s.issueErase g).DirectoryConsistent := by
  rw [State.issueErase_changes]
  refine State.TablesFit.withJob (hs.congr rfl rfl rfl rfl rfl) (h _ ?_)
  cases s.pfw with
  | true => exact .inl rfl
  | false => exact .inr rfl

theorem State.SweepReady.directory {next : Nat} {epochPage : Option PageNo} {noted : List NotedErase}
    (h : s.SweepReady next epochPage noted) (hw : s.Sweeps next epochPage noted t) : t.DirectoryConsistent := by
  have notedKept (n : NotedErase) (hn : n ∈ noted) := (PageEntry.isKept_iff _).mp (h.kept n hn)
  cases hw with
  | @erase g hg =>
    refine State.TablesFit.issueErase (s := s.inFormat _ noted) (hs.congr rfl rfl rfl rfl rfl) fun op ho => ?_
    exact ⟨h.nodup, notedKept, h.below, h.passed, ho.imp_right fun e => ⟨g, hg, e⟩, h.pending, h.epoch⟩
  | @eraseEpoch g hn he =>
    subst he
    refine State.TablesFit.issueErase (s := s.inFormat _ noted) (hs.congr rfl rfl rfl rfl rfl) fun op ho => ?_
    exact ⟨h.nodup, notedKept, fun x _ hx => h.all_noted hn x ((PageEntry.isKept_iff _).mpr hx), ho,
      fun x hx => (Option.some.inj (h.pending x hx)).symm, h.epoch g rfl⟩
  | ends hn he =>
    subst he
    exact State.formatEnd_directory hs.bad h.nodup h.kept (h.all_noted hn) fun x hx => nomatch h.pending x hx

omit hs in
/-- The second step begins with nothing noted (R166, R167). -/
theorem State.SweepReady.begins {epochPage : Option PageNo} (hp : s.PendingOnly fun g => epochPage = some g)
    (he : ∀ g, epochPage = some g → s.page g = .stale ∨ ∃ h, s.page g = .pending (some h)) :
    s.SweepReady 0 epochPage [] :=
  ⟨List.nodup_nil, fun _ hn => absurd hn List.not_mem_nil, fun _ hg => absurd hg (Nat.not_lt_zero _),
    fun _ hn => absurd hn List.not_mem_nil, hp, he⟩

/-! ## The first step (R166) -/

theorem State.AttemptsEpoch.directory {q : Sequence} {failures : Nat} (nothing : s.PendingOnly fun _ => False)
    (h : s.AttemptsEpoch q failures [] t) : t.DirectoryConsistent := by
  have ready : s.SweepReady 0 none [] := State.SweepReady.begins (fun g hg => (nothing g hg).elim) nofun
  cases h with
  | givesUp h => exact ready.directory hs h
  | waits =>
    refine State.TablesFit.withJob (hs.congr rfl rfl rfl rfl rfl) ?_
    exact ⟨List.nodup_nil, fun _ hn => absurd hn List.not_mem_nil, rfl, .inl rfl, fun g hg => (nothing g hg).elim⟩
  | @programs g hg =>
    have clean : (s.inFormat (.epoch q failures) []).page g = .clean :=
      PageEntry.isClean_iff.mp (s.findClean_isClean hg)
    have job : ((s.inFormat (.epoch q failures) []).programs g (epochImage q)).JobFits := by
      refine ⟨List.nodup_nil, fun _ hn => absurd hn List.not_mem_nil, rfl,
        .inr (.inl ⟨g, epochImage q, rfl, by rw [State.page_programs, if_pos rfl], rfl, rfl⟩), fun x hx => ?_⟩
      rw [State.page_programs] at hx
      split at hx
      · next e => exact ⟨epochImage q, by rw [e]; rfl⟩
      · exact (nothing x hx).elim
    have tables : (s.inFormat (.epoch q failures) []).TablesFit := hs.congr rfl rfl rfl rfl rfl
    exact (tables.programs clean (epochImage q)).withJob job
  | @erases g hg =>
    refine State.TablesFit.withJob (hs.congr rfl rfl rfl rfl rfl) ?_
    exact ⟨List.nodup_nil, fun _ hn => absurd hn List.not_mem_nil, rfl,
      .inr (.inr ⟨g, rfl, PageEntry.isStale_iff.mp (s.lowestStale_isStale hg)⟩), fun g hg => (nothing g hg).elim⟩
  | noPage h =>
    have ready' : (s.inFormat (.epoch q failures) []).SweepReady 0 none [] := ready.congr rfl
    have tables : (s.inFormat (.epoch q failures) []).TablesFit := hs.congr rfl rfl rfl rfl rfl
    exact ready'.directory tables h

end

end Sys2Proof.Machine
end

section
/-! SUPPORT. O57: the format after each verdict, and the commands of the engine. -/

namespace Sys2Proof.Machine

/-! ## The job as the invariant gives it -/

section
variable {s : State} (h : s.DirectoryConsistent)
include h

theorem State.DirectoryConsistent.formatFits {step : FormatStep} {noted : List NotedErase}
    (hj : s.job = .format step noted) :
    (noted.map NotedErase.page).Nodup ∧ (∀ n ∈ noted, (s.page n.page).isKept = true) ∧ s.FormatFits noted step := by
  have fits := h.job
  simp only [State.JobFits, hj] at fits
  obtain ⟨nodup, kept, step⟩ := fits
  exact ⟨nodup, fun n hn => (PageEntry.isKept_iff _).mpr (kept n hn), step⟩

theorem State.DirectoryConsistent.eraseFits {g : PageNo} (hj : s.job = .erase g) :
    s.page g = .stale ∧ (s.op = none ∨ s.op = some (.erase g)) ∧ s.PendingOnly fun _ => False := by
  simpa only [State.JobFits, hj] using h.job

theorem State.DirectoryConsistent.mountFits (hj : s.job = .mount) : s.op = none ∧ s.PendingOnly fun _ => False := by
  simpa only [State.JobFits, hj] using h.job

/-- The second step as the invariant gives it. -/
theorem State.DirectoryConsistent.sweepReady {next : Nat} {epochPage : Option PageNo} {noted : List NotedErase}
    (hj : s.job = .format (.sweep next epochPage) noted) :
    s.SweepReady next epochPage noted
      ∧ (s.op = none ∨ ∃ g, s.sweepTarget next epochPage = some g ∧ s.op = some (.erase g)) := by
  obtain ⟨nodup, kept, below, passed, op, pending, epoch⟩ := h.formatFits hj
  exact ⟨⟨nodup, kept, below, passed, pending, epoch⟩, op⟩

end

/-! ## The second step after a verdict (R29, R167) -/

section
variable {s : State} {next : Nat} {epochPage : Option PageNo} {noted : List NotedErase} {g : PageNo}
  (hr : s.SweepReady next epochPage noted) (hg : s.sweepTarget next epochPage = some g)
include hr hg

/-- What lies below the page after `g` is noted once `g` itself is, if it is stored. -/
theorem State.SweepReady.belowNext (x : PageNo) (hx : x.val < g.val + 1) (hk : (s.page x).isKept = true) :
    x = g ∨ x ∈ noted.map NotedErase.page := by
  by_cases e : x = g
  · exact .inl e
  · right
    have lt : x < g := lt_of_le_of_ne (Nat.lt_succ_iff.mp hx) e
    by_cases old : x.val < next
    · exact hr.below x old ((PageEntry.isKept_iff _).mp hk)
    · have := hr.not_kept (State.sweepTarget_passes hg lt (Nat.le_of_not_lt old))
      rw [hk] at this
      cases this

/-- A stored page is noted with the outcome of its erase (R29). -/
theorem State.SweepReady.note (hk : (s.page g).isKept = true) (erased : Bool) :
    s.SweepReady (g.val + 1) epochPage (noted ++ [⟨g, erased⟩]) := by
  obtain ⟨from_, -⟩ := State.sweepTarget_eq_some hg
  refine ⟨?_, fun n hn => ?_, fun x hx hs => ?_, fun n hn => ?_, hr.pending, hr.epoch⟩
  · rw [List.map_append, List.map_singleton, List.nodup_append]
    refine ⟨hr.nodup, List.nodup_singleton _, fun x hx y hy => ?_⟩
    obtain ⟨n, hn, rfl⟩ := List.mem_map.mp hx
    rw [List.mem_singleton.mp hy]
    rintro rfl
    exact absurd (hr.passed n hn) (not_lt.mpr from_)
  · rcases List.mem_append.mp hn with hn | hn
    · exact hr.kept n hn
    · cases List.mem_singleton.mp hn
      exact hk
  · rw [List.map_append, List.mem_append, List.map_singleton, List.mem_singleton]
    exact (hr.belowNext hg x hx ((PageEntry.isKept_iff _).mpr hs)).symm
  · rcases List.mem_append.mp hn with hn | hn
    · exact Nat.lt_succ_of_lt (lt_of_lt_of_le (hr.passed n hn) from_)
    · cases List.mem_singleton.mp hn
      exact Nat.lt_succ_self _

/-- A page that is not stored is settled at once (R28, R167). -/
theorem State.SweepReady.settle (hk : (s.page g).isKept = false) (v : EraseVerdict) :
    (s.settleErase g v).SweepReady (g.val + 1) epochPage noted := by
  obtain ⟨from_, -, -, other⟩ := State.sweepTarget_eq_some hg
  have same (x : PageNo) (hx : x ≠ g) : (s.settleErase g v).page x = s.page x := by
    rw [State.page_settleErase, if_neg hx]
  refine ⟨hr.nodup, fun n hn => ?_, fun x hx hs => ?_, fun n hn => ?_, ?_, fun x hx => ?_⟩
  · rw [same _ fun e => ?_]
    · exact hr.kept n hn
    · have := hr.kept n hn
      rw [e, hk] at this
      cases this
  · have hs := (PageEntry.isKept_iff _).mpr hs
    have ne : x ≠ g := by
      rintro rfl
      rw [State.page_settleErase, if_pos rfl, (erasedEntry_facts v).1] at hs
      cases hs
    rw [same x ne] at hs
    exact (hr.belowNext hg x hx hs).resolve_left ne
  · exact Nat.lt_succ_of_lt (lt_of_lt_of_le (hr.passed n hn) from_)
  · exact .settleErase fun x _ hp => hr.pending x hp
  · rw [same x fun e => other (e ▸ hx)]
    exact hr.epoch x hx

theorem State.SweepReady.sweepVerdict (hs : s.TablesFit) (v : EraseVerdict) :
    (s.sweepVerdict g v epochPage noted).DirectoryConsistent := by
  obtain ⟨-, -, notBad, -⟩ := State.sweepTarget_eq_some hg
  unfold State.sweepVerdict
  split
  · next hk => exact (hr.note hg hk _).directory hs (s.sweep_sweeps _ _ _)
  · next hk =>
    have hk : (s.page g).isKept = false := by simpa [PageEntry.isKept] using hk
    exact (hr.settle hg hk v).directory (hs.settleErase hk notBad v) (State.sweep_sweeps _ _ _ _)

end

/-! ## The job of an operation in progress -/

section
variable {s : State} (h : s.DirectoryConsistent)
include h

/-- A program in progress is one of a commit, of a relocation or of the epoch page (R56, R76, R166). -/
theorem State.DirectoryConsistent.program_cases {g : PageNo} {i : PageImage} (ho : s.op = some (.program g i)) :
    (∃ p token st run, s.job = .commit p token st run ∧ s.RunFits run false)
      ∨ (∃ target run, s.job = .relocate target run ∧ s.RunFits run true ∧ s.CopiesTarget target run)
      ∨ ∃ q failures, s.job = .format (.epoch q failures) [] ∧ s.page g = .pending none
        ∧ s.PendingOnly fun x => x = g := by
  cases hj : s.job with
  | commit p token st run => exact .inl ⟨p, token, st, run, rfl, h.commitFits hj⟩
  | relocate target run => exact .inr (.inl ⟨target, run, rfl, h.relocationFits hj⟩)
  | format step noted =>
    obtain ⟨-, -, fits⟩ := h.formatFits hj
    cases step with
    | epoch q failures =>
      obtain ⟨rfl, op, pending⟩ := fits
      refine .inr (.inr ⟨q, failures, rfl, ?_, fun x hx => ?_⟩)
      · rcases op with op | ⟨g', i', op, page, -⟩ | ⟨g', op, -⟩
        · rw [op] at ho
          cases ho
        · rw [op] at ho
          cases ho
          exact page
        · rw [op] at ho
          cases ho
      · obtain ⟨j, hx⟩ := pending x hx
        rw [ho] at hx
        cases hx
        rfl
    | sweep next epochPage =>
      obtain ⟨-, -, op, -⟩ := fits
      rcases op with op | ⟨_, -, op⟩ <;> rw [op] at ho <;> cases ho
    | eraseEpoch g' =>
      obtain ⟨-, op, -⟩ := fits
      rcases op with op | op <;> rw [op] at ho <;> cases ho
  | idle =>
    rw [(h.idleFits hj).1] at ho
    cases ho
  | mount =>
    rw [(h.mountFits hj).1] at ho
    cases ho
  | erase k =>
    obtain ⟨-, op, -⟩ := h.eraseFits hj
    rcases op with op | op <;> rw [op] at ho <;> cases ho

/-- The page under program is PENDING without a header (R24). -/
theorem State.DirectoryConsistent.page_program {g : PageNo} {i : PageImage} (ho : s.op = some (.program g i)) :
    s.page g = .pending none := by
  rcases h.program_cases ho with ⟨_, _, _, _, -, fits⟩ | ⟨_, _, -, fits, -⟩ | ⟨_, _, -, page, -⟩
  · exact (fits.program ho).1
  · exact (fits.program ho).1
  · exact page

/-- The last step of a format: the epoch page alone is left to erase (R167). -/
theorem State.DirectoryConsistent.eraseEpochFits {g : PageNo} {noted : List NotedErase}
    (hj : s.job = .format (.eraseEpoch g) noted) :
    (∀ x, (s.page x).isKept = true → x ∈ noted.map NotedErase.page) ∧ (s.op = none ∨ s.op = some (.erase g))
      ∧ (s.PendingOnly fun x => x = g) ∧ (s.page g = .stale ∨ ∃ k, s.page g = .pending (some k)) := by
  obtain ⟨-, -, below, op, pending, page⟩ := h.formatFits hj
  exact ⟨fun x hx => below x x.isLt ((PageEntry.isKept_iff _).mp hx), op, pending, page⟩

/-- An erase in progress is one of an ERASE job or of a step of a format (R73, R166, R167). -/
theorem State.DirectoryConsistent.erase_cases {g : PageNo} (ho : s.op = some (.erase g)) :
    (s.job = .erase g ∧ s.page g = .stale ∧ s.PendingOnly fun _ => False)
      ∨ (∃ q failures, s.job = .format (.epoch q failures) [] ∧ s.page g = .stale ∧ s.PendingOnly fun _ => False)
      ∨ (∃ next epochPage noted, s.job = .format (.sweep next epochPage) noted ∧ s.SweepReady next epochPage noted
        ∧ s.sweepTarget next epochPage = some g)
      ∨ ∃ noted, s.job = .format (.eraseEpoch g) noted := by
  cases hj : s.job with
  | erase k =>
    obtain ⟨page, op, nothing⟩ := h.eraseFits hj
    rcases op with op | op <;> rw [op] at ho <;> cases ho
    exact .inl ⟨rfl, page, nothing⟩
  | format step noted =>
    cases step with
    | epoch q failures =>
      obtain ⟨-, -, rfl, op, pending⟩ := h.formatFits hj
      refine .inr (.inl ⟨q, failures, rfl, ?_, fun x hx => ?_⟩)
      · rcases op with op | ⟨g', i', op, -⟩ | ⟨g', op, page⟩
        · rw [op] at ho
          cases ho
        · rw [op] at ho
          cases ho
        · rw [op] at ho
          cases ho
          exact page
      · obtain ⟨j, hx⟩ := pending x hx
        rw [ho] at hx
        cases hx
    | sweep next epochPage =>
      obtain ⟨ready, op⟩ := h.sweepReady hj
      rcases op with op | ⟨g', target, op⟩ <;> rw [op] at ho <;> cases ho
      exact .inr (.inr (.inl ⟨next, epochPage, noted, rfl, ready, target⟩))
    | eraseEpoch g' =>
      obtain ⟨-, op, -⟩ := h.eraseEpochFits hj
      rcases op with op | op <;> rw [op] at ho <;> cases ho
      exact .inr (.inr (.inr ⟨noted, rfl⟩))
  | commit p token st run =>
    obtain ⟨-, -, -, -, -, -, op, -⟩ := h.commitFits hj
    rcases op with op | ⟨_, _, op, -⟩ <;> rw [op] at ho <;> cases ho
  | relocate target run =>
    obtain ⟨⟨-, -, -, -, -, -, op, -⟩, -⟩ := h.relocationFits hj
    rcases op with op | ⟨_, _, op, -⟩ <;> rw [op] at ho <;> cases ho
  | idle =>
    rw [(h.idleFits hj).1] at ho
    cases ho
  | mount =>
    rw [(h.mountFits hj).1] at ho
    cases ho

/-! ## The verdicts -/

theorem State.DirectoryConsistent.afterPass {g : PageNo} {i : PageImage} (ho : s.op = some (.program g i)) :
    ((s.programPassed g i).afterPass g).DirectoryConsistent := by
  have job : (s.programPassed g i).job = s.job := rfl
  unfold State.afterPass
  rcases h.program_cases ho with ⟨p, token, st, run, hj, fits⟩ | ⟨target, run, hj, fits, copies⟩
    | ⟨q, failures, hj, page, pending⟩
  · rw [job, hj]
    exact h.tables.commitPassed ho fits p token st
  · rw [job, hj]
    exact h.tables.relocationPassed ho fits copies
  · rw [job, hj]
    refine State.SweepReady.directory (h.tables.programPassed (by rw [page]; rfl))
      (State.SweepReady.begins (fun x hx => ?_) fun x hx => ?_) (State.sweep_sweeps _ 0 (some g) [])
    · rw [State.page_programPassed] at hx
      split at hx
      · next e => rw [e]
      · rw [pending x hx]
    · cases hx
      exact .inr ⟨i.header, by rw [State.page_programPassed, if_pos rfl]⟩

theorem State.DirectoryConsistent.afterFail {g : PageNo} {i : PageImage} (ho : s.op = some (.program g i))
    (mark : MarkOutcome) : (s.programFailed g mark).afterFail.DirectoryConsistent := by
  have job : (s.programFailed g mark).job = s.job := rfl
  unfold State.afterFail
  rcases h.program_cases ho with ⟨p, token, st, run, hj, fits⟩ | ⟨target, run, hj, fits, copies⟩
    | ⟨q, failures, hj, page, pending⟩
  · rw [job, hj]
    exact h.tables.commitFailed ho fits mark p token st
  · rw [job, hj]
    exact h.tables.relocationFailed ho fits copies mark
  · rw [job, hj]
    refine State.AttemptsEpoch.directory (h.tables.programFailed page mark) (fun x hx => ?_)
      (State.epochAttempt_attempts _ q (failures + 1) [])
    rw [State.page_programFailed] at hx
    split at hx
    · cases hx
    · next ne => exact ne (pending x hx)

theorem State.DirectoryConsistent.afterErase {g : PageNo} (ho : s.op = some (.erase g)) (v : EraseVerdict) :
    ((s.eraseDone g v).afterErase g v).DirectoryConsistent := by
  have job : (s.eraseDone g v).job = s.job := rfl
  have tables : (s.eraseDone g v).TablesFit := h.tables.congr rfl rfl rfl rfl rfl
  have settled (hp : s.page g = .stale) : ((s.eraseDone g v).settleErase g v).TablesFit := by
    have page : (s.eraseDone g v).page g = .stale := hp
    exact tables.settleErase (by rw [page]; rfl) (by rw [page]; rfl) v
  unfold State.afterErase
  rcases h.erase_cases ho with ⟨hj, page, nothing⟩ | ⟨q, failures, hj, page, nothing⟩
    | ⟨next, epochPage, noted, hj, ready, target⟩ | ⟨noted, hj⟩
  · rw [job, hj]
    exact (settled page).endJob (.settleErase fun x _ => nothing x)
  · rw [job, hj]
    exact State.AttemptsEpoch.directory (settled page) (.settleErase fun x _ => nothing x)
      (State.epochAttempt_attempts _ q failures [])
  · rw [job, hj]
    have ready' : (s.eraseDone g v).SweepReady next epochPage noted := ready.congr rfl
    exact ready'.sweepVerdict target tables v
  · rw [job, hj]
    obtain ⟨nodup, kept, -⟩ := h.formatFits hj
    obtain ⟨all, -, pending, page⟩ := h.eraseEpochFits hj
    have old : ((s.eraseDone g v).page g).isKept = false ∧ ((s.eraseDone g v).page g).isBad = false := by
      have same : (s.eraseDone g v).page g = s.page g := rfl
      rcases page with page | ⟨_, page⟩ <;> rw [same, page] <;> exact ⟨rfl, rfl⟩
    have tables' := tables.settleErase old.1 old.2 v
    have other (x : PageNo) (hx : (s.page x).isKept = true) : x ≠ g := by
      rintro rfl
      have same : (s.eraseDone x v).page x = s.page x := rfl
      rw [same, hx] at old
      cases old.1
    refine State.formatEnd_directory tables'.bad nodup (fun n hn => ?_) (fun x hx => all x ?_)
      (.settleErase fun x ne hp => ne (pending x hp))
    · rw [State.page_settleErase, if_neg (other _ (kept n hn))]
      exact kept n hn
    · rw [State.page_settleErase] at hx
      split at hx
      · rw [(erasedEntry_facts v).1] at hx
        cases hx
      · exact hx

/-! ## The resumption and the beginning of a format (R98, R165) -/

theorem State.DirectoryConsistent.resume : s.resume.DirectoryConsistent := by
  unfold State.resume
  split
  · exact h
  · next ho =>
    split
    · exact h
    · exact h
    · next p token st run hj =>
      exact h.tables.programNext ho (h.commitFits hj) (.of_commit hj) fun u hu => hu.commitMediaFailure p token
    · next target run hj =>
      obtain ⟨fits, copies⟩ := h.relocationFits hj
      exact h.tables.programNext ho fits (.of_relocate hj copies) fun u hu => hu.relocationMediaFailure
    · next g hj =>
      obtain ⟨page, -, nothing⟩ := h.eraseFits hj
      refine h.tables.issueErase fun op hop => ?_
      simp only [State.JobFits, hj]
      exact ⟨page, hop, nothing⟩
    · next step noted hj =>
      cases step with
      | epoch q failures =>
        obtain ⟨-, -, rfl, -, pending⟩ := h.formatFits hj
        refine State.AttemptsEpoch.directory h.tables (fun x hx => ?_) (s.epochAttempt_attempts q failures [])
        obtain ⟨j, hx⟩ := pending x hx
        rw [ho] at hx
        cases hx
      | sweep next epochPage =>
        exact (h.sweepReady hj).1.directory h.tables (s.sweep_sweeps next epochPage noted)
      | eraseEpoch g =>
        obtain ⟨nodup, kept, below, -, pending, page⟩ := h.formatFits hj
        refine State.TablesFit.issueErase (s := s.inFormat (.eraseEpoch g) noted) (h.tables.congr rfl rfl rfl rfl rfl)
          fun op hop => ?_
        exact ⟨nodup, fun n hn => (PageEntry.isKept_iff _).mp (kept n hn), below, hop, pending, page⟩

theorem State.DirectoryConsistent.beginFormat (hj : s.job = .idle) : s.beginFormat.DirectoryConsistent := by
  obtain ⟨-, nothing⟩ := h.idleFits hj
  unfold State.beginFormat
  split
  · exact State.SweepReady.directory h.tables (epochPage := none)
      (State.SweepReady.begins (fun g hg => (nothing g hg).elim) nofun)
      (s.sweep_sweeps 0 none [])
  · next hend =>
    have tables : ({ s with nextSequence := s.nextSequence + 1 } : State).TablesFit :=
      h.tables.of_eq rfl rfl rfl (le_of_lt (toNat_lt_succ_of_ne_end hend)) rfl
    exact State.AttemptsEpoch.directory tables nothing (State.epochAttempt_attempts _ _ 0 [])

end

end Sys2Proof.Machine
end

section
/-! SUPPORT. O57: the tables that a mount rebuilds (R86 to R92). -/

namespace Sys2Proof.Machine

/-! ## The latest of some found pages (R25, R34) -/

theorem laterPage_eq_or (a b : Found) : laterPage a b = a ∨ laterPage a b = b := by
  unfold laterPage
  split_ifs <;> simp

theorem sequence_le_laterPage (a b : Found) :
    a.sequence.toNat ≤ (laterPage a b).sequence.toNat ∧ b.sequence.toNat ≤ (laterPage a b).sequence.toNat := by
  unfold laterPage
  split_ifs <;> constructor <;> omega

theorem foldl_laterPage (l : List Found) (f : Found) :
    l.foldl laterPage f ∈ f :: l ∧ ∀ x ∈ f :: l, x.sequence.toNat ≤ (l.foldl laterPage f).sequence.toNat := by
  induction l generalizing f with
  | nil => exact ⟨List.mem_cons_self, fun x hx => by simp_all⟩
  | cons g rest ih =>
    obtain ⟨mem, above⟩ := ih (laterPage f g)
    have le := above _ List.mem_cons_self
    obtain ⟨hf, hg⟩ := sequence_le_laterPage f g
    rw [List.foldl_cons]
    refine ⟨?_, fun x hx => ?_⟩
    · rcases List.mem_cons.mp mem with e | mem
      · rw [e]
        rcases laterPage_eq_or f g with e | e <;> rw [e] <;> simp
      · exact List.mem_cons_of_mem _ (List.mem_cons_of_mem _ mem)
    · rcases List.mem_cons.mp hx with rfl | hx
      · exact hf.trans le
      · rcases List.mem_cons.mp hx with rfl | hx
        · exact hg.trans le
        · exact above x (List.mem_cons_of_mem _ hx)

/-- The latest of some pages is one of them, and none has a higher sequence (R25). -/
theorem latestPage_eq_some {l : List Found} {f : Found} (h : latestPage l = some f) :
    f ∈ l ∧ ∀ x ∈ l, x.sequence.toNat ≤ f.sequence.toNat := by
  cases l with
  | nil => cases h
  | cons g rest =>
    obtain rfl := Option.some.inj h
    exact foldl_laterPage rest g

theorem latestPage_isSome {l : List Found} (h : l ≠ []) : ∃ f, latestPage l = some f := by
  cases l with
  | nil => exact absurd rfl h
  | cons g rest => exact ⟨_, rfl⟩

/-! ## Sequences in increasing order (R65) -/

theorem mem_increasing (l : List Sequence) (q : Sequence) : q ∈ increasing l ↔ q ∈ l := by
  induction l with
  | nil => rfl
  | cons x rest ih =>
    unfold increasing
    simp only
    split
    · next hx =>
      rw [List.contains_iff_mem] at hx
      rw [List.mem_cons, ← ih]
      exact ⟨.inr, fun h => h.elim (fun e => e ▸ hx) id⟩
    · rw [List.mem_cons, ← ih, List.mem_append, List.mem_cons]
      conv_rhs => rw [← List.takeWhile_append_dropWhile (p := fun y => y.toNat < x.toNat) (l := increasing rest),
        List.mem_append]
      tauto

theorem increasing_pairwise (l : List Sequence) : (increasing l).Pairwise fun x y => x.toNat < y.toNat := by
  induction l with
  | nil => exact List.Pairwise.nil
  | cons x rest ih =>
    unfold increasing
    simp only
    split
    · exact ih
    · next hx =>
      have notIn : x ∉ increasing rest := by simpa using hx
      have below : ∀ y ∈ (increasing rest).takeWhile (fun y => y.toNat < x.toNat), y.toNat < x.toNat := fun y hy => by
        simpa using List.mem_takeWhile_imp hy
      have above : ∀ y ∈ (increasing rest).dropWhile (fun y => y.toNat < x.toNat), x.toNat < y.toNat := by
        intro y hy
        have mem : y ∈ increasing rest := (List.dropWhile_suffix _).subset hy
        have ne : y.toNat ≠ x.toNat := fun e => notIn (BitVec.eq_of_toNat_eq e ▸ mem)
        cases hd : (increasing rest).dropWhile (fun y => y.toNat < x.toNat) with
        | nil =>
          rw [hd] at hy
          cases hy
        | cons z tail =>
          have first : ¬ z.toNat < x.toNat := by
            have := List.head_dropWhile_not (p := fun y : Sequence => decide (y.toNat < x.toNat)) (l := increasing rest)
              (by rw [hd]; simp)
            simpa [hd] using this
          have sorted := ih.sublist (List.dropWhile_sublist (p := fun y : Sequence => decide (y.toNat < x.toNat)))
          rw [hd] at hy sorted
          rcases List.mem_cons.mp hy with rfl | hy
          · omega
          · have := (List.pairwise_cons.mp sorted).1 y hy
            omega
      rw [List.pairwise_append]
      refine ⟨ih.sublist (List.takeWhile_sublist _), List.pairwise_cons.mpr ⟨above, ih.sublist (List.dropWhile_sublist _)⟩,
        fun a ha b hb => ?_⟩
      rcases List.mem_cons.mp hb with rfl | hb
      · exact below a ha
      · exact lt_trans (below a ha) (above b hb)

/-! ## The pages of a complete group, in position order (R87) -/

/-- What a complete group is: one count, its length; one page to each position; distinct records (R87). -/
theorem groupComplete_iff {group : List Found} (h : groupComplete group = true) :
    (∀ x ∈ group, x.image.header.count = group.length)
      ∧ (∀ k < group.length, group.countP (fun f => f.image.header.position == k + 1) = 1)
      ∧ (group.map fun x => x.image.header.record).Nodup := by
  cases group with
  | nil => cases h
  | cons f rest =>
    simp only [groupComplete, Bool.and_eq_true, List.all_eq_true, beq_iff_eq, decide_eq_true_eq] at h
    obtain ⟨⟨⟨same, length⟩, positions⟩, distinct⟩ := h
    refine ⟨fun x hx => (same x hx).1.trans length.symm, fun k hk => ?_, distinct⟩
    rw [length] at hk
    have := List.all_eq_true.mp positions k (List.mem_range.mpr hk)
    simpa using this

/-- A group with one page to each position has, in position order, a page of position `k + 1` at place `k`. -/
theorem inPositionOrder_eq {group : List Found} {n : Nat} (hn : n ≤ 8)
    (once : ∀ k < n, group.countP (fun f => f.image.header.position == k + 1) = 1)
    (within : ∀ x ∈ group, x.image.header.position ≤ n) :
    ∃ F : Nat → Found, inPositionOrder group = (List.range n).map F
      ∧ ∀ k < n, F k ∈ group ∧ (F k).image.header.position = k + 1 := by
  have one (k : Nat) : ∃ f : Found, k < n → group.filter (fun f => f.image.header.position == k + 1) = [f] := by
    by_cases hk : k < n
    · have := once k hk
      rw [List.countP_eq_length_filter] at this
      obtain ⟨f, hf⟩ := List.length_eq_one_iff.mp this
      exact ⟨f, fun _ => hf⟩
    · exact ⟨⟨0, ⟨⟨.data, none, none, 0, 0, 0, false⟩, .none, 0⟩⟩, fun h => absurd h hk⟩
  choose F hF using one
  refine ⟨F, ?_, fun k hk => ?_⟩
  · have split : List.range 8 = List.range n ++ (List.range (8 - n)).map (n + ·) := by
      rw [← List.range_add]
      congr 1
      omega
    have tail : ((List.range (8 - n)).map (n + ·)).flatMap
        (fun k => group.filter fun f => f.image.header.position == k + 1) = [] := by
      rw [List.flatMap_eq_nil_iff]
      intro k hk
      obtain ⟨j, -, rfl⟩ := List.mem_map.mp hk
      rw [List.filter_eq_nil_iff]
      intro x hx
      have := within x hx
      simp only [beq_iff_eq]
      omega
    unfold inPositionOrder
    rw [split, List.flatMap_append, tail, List.append_nil, ← List.flatMap_singleton' ((List.range n).map F), List.flatMap_map]
    exact List.flatMap_congr fun k hk => hF k (List.mem_range.mp hk)
  · have : F k ∈ group.filter fun f => f.image.header.position == k + 1 := by rw [hF k hk]; simp
    obtain ⟨mem, position⟩ := List.mem_filter.mp this
    exact ⟨mem, by simpa using position⟩

end Sys2Proof.Machine
end

section
/-! SUPPORT. O57: the mount's tables fit one another (R86 to R93). -/

namespace Sys2Proof.Machine

/-! ## The fields of a page that a mount goes by (R21, R86) -/

/-- A VALID page carries a sequence below the last one (R21, Table 7). -/
theorem PageImage.sequence_ne_end {i : PageImage} (h : i.inRange = true) : i.header.sequence ≠ Config.sequenceEnd := by
  simp only [PageImage.inRange, Header.groupInRange, Bool.and_eq_true] at h
  exact bne_iff_ne.mp h.1.2

/-- The fields of a VALID page that is no epoch page (Table 7). -/
theorem PageImage.fields_inRange {i : PageImage} (h : i.inRange = true) (hk : i.header.kind ≠ .epoch) :
    i.header.record.isSome = true ∧ i.header.version.isSome = true ∧ i.header.position ≤ i.header.count
      ∧ i.header.count ≤ 8 := by
  obtain ⟨group, fields⟩ := Bool.and_eq_true _ _ ▸ (show (i.header.groupInRange && _) = true from h)
  simp only [Header.groupInRange, Bool.and_eq_true, decide_eq_true_eq] at group
  obtain ⟨⟨⟨⟨-, within⟩, few⟩, -⟩, -⟩ := group
  have host (h : i.header.hostRecordInRange = true) : i.header.record.isSome = true := by
    unfold Header.hostRecordInRange at h
    cases hr : i.header.record <;> simp_all
  have version (h : i.header.versionInRange = true) : i.header.version.isSome = true := by
    simp only [Header.versionInRange, Bool.and_eq_true] at h
    exact h.1
  have named : i.header.record.isSome = true ∧ i.header.version.isSome = true := by
    revert fields
    cases hkind : i.header.kind with
    | epoch => exact absurd hkind hk
    | data =>
      cases i.payload <;> simp only [Bool.false_eq_true, false_imp_iff, Bool.and_eq_true]
      rintro ⟨⟨hr, hv⟩, -⟩
      exact ⟨host hr, version hv⟩
    | tombstone =>
      cases i.payload <;> simp only [Bool.false_eq_true, false_imp_iff, Bool.and_eq_true]
      rintro ⟨hr, hv⟩
      exact ⟨host hr, version hv⟩
    | layout =>
      cases i.payload <;> simp only [Bool.false_eq_true, false_imp_iff, Bool.and_eq_true]
      rintro ⟨hr, hv⟩
      exact ⟨by rw [eq_of_beq hr]; rfl, version hv⟩
  exact ⟨named.1, named.2, within, few⟩

/-- A page of a complete group, with its fields. -/
structure Found.Member (complete : List Found) (f : Found) : Prop where
  record : f.image.header.record.isSome = true
  version : f.image.header.version.isSome = true
  kind : f.image.header.kind ≠ .epoch
  within : f.image.header.position ≤ (groupOf complete f.sequence).length
  few : (groupOf complete f.sequence).length ≤ 8
  group : groupComplete (groupOf complete f.sequence) = true

section
variable {s : State}

theorem mem_groupOf {l : List Found} {q : Sequence} {f : Found} : f ∈ groupOf l q ↔ f ∈ l ∧ f.sequence = q := by
  simp [groupOf]

/-- The group of a page among the complete ones is its whole group. -/
theorem groupOf_completeCandidates {l : List Found} {q : Sequence} (h : groupComplete (groupOf l q) = true) :
    groupOf (completeCandidates l) q = groupOf l q := by
  unfold groupOf completeCandidates
  rw [List.filter_filter]
  refine List.filter_congr fun x _ => ?_
  by_cases hq : x.sequence = q
  · subst hq
    unfold groupOf at h
    simp [h, groupOf]
  · simp [hq]

theorem mountComplete_member {f : Found} (hf : f ∈ mountComplete s.verdicts) : f.Member (mountComplete s.verdicts) := by
  have complete := complete_of_mem hf
  have inRange := State.inRange_of_verdict complete.valid
  obtain ⟨record, version, within, few⟩ := PageImage.fields_inRange inRange complete.noEpoch
  have group : groupOf (mountComplete s.verdicts) f.sequence
      = groupOf ((foundPages s.verdicts).filter Found.isCandidate) f.sequence := by
    unfold mountComplete at hf ⊢
    split
    · next he =>
      rw [if_pos he] at hf
      cases hf
    · exact groupOf_completeCandidates complete.group
  have whole : groupComplete (groupOf (mountComplete s.verdicts) f.sequence) = true := group ▸ complete.group
  have count := (groupComplete_iff whole).1 f (mem_groupOf.mpr ⟨hf, rfl⟩)
  exact ⟨record, version, complete.noEpoch, count ▸ within, count ▸ few, whole⟩

theorem mountComplete_page {f : Found} (hf : f ∈ mountComplete s.verdicts) :
    s.verdicts.get f.page = .valid f.image := (complete_of_mem hf).valid

theorem mem_livePages {l : List Found} {f : Found} :
    f ∈ livePages l ↔ f ∈ l ∧ ∀ x ∈ l, x.image.header.record = f.image.header.record → x.sequence.toNat ≤ f.sequence.toNat := by
  simp only [livePages, isCurrent, List.mem_filter, List.all_eq_true, Bool.or_eq_true, bne_iff_ne, decide_eq_true_eq,
    ← imp_iff_not_or]

/-- A record has one LIVE page (R90). -/
theorem livePages_eq_of_record {f x : Found} (hf : f ∈ livePages (mountComplete s.verdicts))
    (hx : x ∈ livePages (mountComplete s.verdicts)) (h : f.image.header.record = x.image.header.record) : f = x := by
  obtain ⟨memf, topf⟩ := mem_livePages.mp hf
  obtain ⟨memx, topx⟩ := mem_livePages.mp hx
  have sequence : f.sequence = x.sequence :=
    BitVec.eq_of_toNat_eq (le_antisymm (topx f memf h) (topf x memx h.symm))
  obtain ⟨-, -, distinct⟩ := groupComplete_iff (mountComplete_member memx).group
  exact List.inj_on_of_nodup_map distinct (mem_groupOf.mpr ⟨memf, sequence⟩) (mem_groupOf.mpr ⟨memx, rfl⟩) h

/-! ## The Page Directory after a mount (R86, R89, R90) -/

theorem mem_keptPages {l live : List Found} {f : Found} :
    f ∈ keptPages l live ↔ f ∈ l ∧ ∃ x ∈ live, x.sequence = f.sequence := by
  simp [keptPages]

/-- With an epoch page nothing is stored (R89). -/
theorem epochMountedEntry_facts (v : PageVerdict) :
    (epochMountedEntry v).isKept = false ∧ (epochMountedEntry v).isPending = false := by
  cases v <;> exact ⟨rfl, rfl⟩

/-- A stored page after a mount is a page of a kept group: LIVE exactly if it holds a current record (R90). -/
theorem mountedEntry_cases {g : PageNo} {e : PageEntry}
    (h : mountedEntry (livePages (mountComplete s.verdicts))
      (keptPages (mountComplete s.verdicts) (livePages (mountComplete s.verdicts))) g (s.verdicts.get g) = e)
    (hk : e.isKept = true) :
    ∃ f ∈ keptPages (mountComplete s.verdicts) (livePages (mountComplete s.verdicts)), f.page = g
      ∧ (f ∈ livePages (mountComplete s.verdicts) ∧ e = .live f.image.header
        ∨ f ∉ livePages (mountComplete s.verdicts) ∧ e = .retained f.image.header) := by
  cases hv : s.verdicts.get g with
  | blank => rw [hv] at h; subst h; cases hk
  | retired => rw [hv] at h; subst h; cases hk
  | damaged => rw [hv] at h; subst h; cases hk
  | valid i =>
    rw [hv] at h
    simp only [mountedEntry, List.any_eq_true, beq_iff_eq] at h
    have image {f : Found} (hf : f ∈ mountComplete s.verdicts) (hp : f.page = g) : f.image = i :=
      PageVerdict.valid.inj ((mountComplete_page hf).symm.trans (hp ▸ hv))
    split at h
    · next live =>
      obtain ⟨f, hf, hp⟩ := live
      obtain ⟨mem, -⟩ := mem_livePages.mp hf
      exact ⟨f, mem_keptPages.mpr ⟨mem, f, hf, rfl⟩, hp, .inl ⟨hf, by rw [← h, image mem hp]⟩⟩
    · next dead =>
      split at h
      · next kept =>
        obtain ⟨f, hf, hp⟩ := kept
        obtain ⟨mem, -⟩ := mem_keptPages.mp hf
        exact ⟨f, hf, hp, .inr ⟨fun hl => dead ⟨f, hl, hp⟩, by rw [← h, image mem hp]⟩⟩
      · subst h
        cases hk

theorem mountedEntry_not_pending (live kept : List Found) (g : PageNo) (v : PageVerdict) :
    (mountedEntry live kept g v).isPending = false := by
  cases v with
  | valid i =>
    unfold mountedEntry
    split_ifs <;> rfl
  | blank => rfl
  | retired => rfl
  | damaged => rfl

/-- The page of a kept group after a mount (R90). -/
theorem mountedEntry_of_kept {f : Found}
    (hf : f ∈ keptPages (mountComplete s.verdicts) (livePages (mountComplete s.verdicts))) :
    mountedEntry (livePages (mountComplete s.verdicts))
        (keptPages (mountComplete s.verdicts) (livePages (mountComplete s.verdicts))) f.page (s.verdicts.get f.page)
      = if (livePages (mountComplete s.verdicts)).any fun x => x.page == f.page then .live f.image.header
        else .retained f.image.header := by
  obtain ⟨mem, -⟩ := mem_keptPages.mp hf
  have kept : (keptPages (mountComplete s.verdicts) (livePages (mountComplete s.verdicts))).any
      (fun x => x.page == f.page) = true := List.any_eq_true.mpr ⟨f, hf, by simp⟩
  rw [mountComplete_page mem, mountedEntry, if_pos kept]

/-! ## The tables after a mount (R89 to R92) -/

/-- The tables as a mount rebuilds them, with the engine free. -/
def State.remounted (s : State) : State := { s.rebuild s.verdicts with job := .idle, op := none }

theorem State.remounted_fields (s : State) :
    s.remounted.pages = mountedPages s.verdicts (mountComplete s.verdicts) (epochPage (foundPages s.verdicts)).isSome
      ∧ s.remounted.records = Table.build 129 (mountedRecord (livePages (mountComplete s.verdicts)))
      ∧ s.remounted.census = mountedCensus (mountComplete s.verdicts)
      ∧ s.remounted.nextSequence = mountedSequence (foundPages s.verdicts)
      ∧ s.remounted.badCount = s.remounted.pages.count PageEntry.isBad
      ∧ s.remounted.job = .idle ∧ s.remounted.op = none := by
  unfold State.remounted
  rw [State.rebuild_eq]
  exact ⟨rfl, rfl, rfl, rfl, rfl, rfl, rfl⟩

theorem State.page_remounted (g : PageNo) :
    s.remounted.page g = if (epochPage (foundPages s.verdicts)).isSome then epochMountedEntry (s.verdicts.get g)
      else mountedEntry (livePages (mountComplete s.verdicts))
        (keptPages (mountComplete s.verdicts) (livePages (mountComplete s.verdicts))) g (s.verdicts.get g) := by
  obtain ⟨pages, -⟩ := s.remounted_fields
  rw [State.page, pages, mountedPages, Table.get_build]

/-- No group is gone by where an epoch page is found (R89). -/
theorem epochPage_of_mem {f : Found} (hf : f ∈ mountComplete s.verdicts) :
    (epochPage (foundPages s.verdicts)).isSome = false := by
  unfold mountComplete at hf
  split at hf
  · cases hf
  · next h => simpa using h

theorem State.remounted_not_pending (g : PageNo) : (s.remounted.page g).isPending = false := by
  rw [State.page_remounted]
  split
  · exact (epochMountedEntry_facts _).2
  · exact mountedEntry_not_pending _ _ _ _

/-- A stored page after a mount: a page of a kept group, LIVE exactly if it holds a current record (R89, R90). -/
theorem State.remounted_kept {g : PageNo} (hk : (s.remounted.page g).isKept = true) :
    ∃ f ∈ keptPages (mountComplete s.verdicts) (livePages (mountComplete s.verdicts)), f.page = g
      ∧ (f ∈ livePages (mountComplete s.verdicts) ∧ s.remounted.page g = .live f.image.header
        ∨ f ∉ livePages (mountComplete s.verdicts) ∧ s.remounted.page g = .retained f.image.header) := by
  have page := State.page_remounted (s := s) g
  split at page
  · rw [page, (epochMountedEntry_facts _).1] at hk
    cases hk
  · exact mountedEntry_cases page.symm hk

theorem State.remounted_page_of_kept {f : Found}
    (hf : f ∈ keptPages (mountComplete s.verdicts) (livePages (mountComplete s.verdicts))) :
    s.remounted.page f.page
      = if (livePages (mountComplete s.verdicts)).any fun x => x.page == f.page then .live f.image.header
        else .retained f.image.header := by
  rw [State.page_remounted, epochPage_of_mem (mem_keptPages.mp hf).1]
  exact mountedEntry_of_kept hf

theorem State.remounted_page_of_live {f : Found} (hf : f ∈ livePages (mountComplete s.verdicts)) :
    s.remounted.page f.page = .live f.image.header := by
  rw [State.remounted_page_of_kept (mem_keptPages.mpr ⟨(mem_livePages.mp hf).1, f, hf, rfl⟩),
    if_pos (List.any_eq_true.mpr ⟨f, hf, by simp⟩)]

theorem State.record_remounted (r : RecordNo) :
    s.remounted.record r = mountedRecord (livePages (mountComplete s.verdicts)) r := by
  obtain ⟨-, records, -⟩ := s.remounted_fields
  rw [State.record, records, Table.get_build]

/-- The entry that an image gives names its page, sequence and version, and is DELETED for a TOMBSTONE (R10). -/
theorem PageImage.entry_backed {i : PageImage} (g : PageNo) (hv : i.header.version.isSome = true)
    (hk : i.header.kind ≠ .epoch) :
    (i.entry g).backing = some (g, i.header.sequence) ∧ i.header.version = some (i.entry g).version
      ∧ (i.header.kind = .tombstone ↔ i.entry g = .deleted (i.entry g).version g i.header.sequence) := by
  obtain ⟨v, hv⟩ := Option.isSome_iff_exists.mp hv
  unfold PageImage.entry
  rw [hv]
  cases h : i.header.kind with
  | data => exact ⟨rfl, rfl, by simp⟩
  | layout => exact ⟨rfl, rfl, by simp⟩
  | tombstone => exact ⟨rfl, rfl, by simp [RecordEntry.version]⟩
  | epoch => exact absurd h hk

theorem State.remounted_recordsBacked : s.remounted.RecordsBacked := by
  refine ⟨fun r g q hq => ?_, fun g k hk => ?_⟩
  · rw [State.record_remounted] at hq ⊢
    rcases mountedRecord_cases (livePages (mountComplete s.verdicts)) r with ⟨e, -⟩ | ⟨f, hf, hr, e⟩
    · rw [e] at hq
      cases hq
    · have member := mountComplete_member (mem_livePages.mp hf).1
      obtain ⟨backing, version, deleted⟩ := PageImage.entry_backed f.page member.version member.kind
      rw [e, backing] at hq
      cases hq
      exact ⟨f.image.header, State.remounted_page_of_live hf, hr, e ▸ version, rfl, member.kind, e ▸ deleted⟩
  · obtain ⟨f, -, rfl, ⟨hf, page⟩ | ⟨-, page⟩⟩ := State.remounted_kept (g := g) (by rw [hk]; rfl)
    · rw [hk] at page
      cases page
      have member := mountComplete_member (mem_livePages.mp hf).1
      obtain ⟨r, hr⟩ := Option.isSome_iff_exists.mp member.record
      refine ⟨r, hr, ?_⟩
      rw [State.record_remounted]
      rcases mountedRecord_cases (livePages (mountComplete s.verdicts)) r with ⟨-, none⟩ | ⟨x, hx, hxr, e⟩
      · exact absurd hr (none f hf)
      · obtain rfl := livePages_eq_of_record hx hf (hxr.trans hr.symm)
        rw [e, (PageImage.entry_backed x.page member.version member.kind).1]
    · rw [hk] at page
      cases page

/-- The entry of the Census that a mount makes of a kept group (R65, R90). -/
def mountedGroup (complete : List Found) (q : Sequence) : CensusEntry :=
  ⟨q, (inPositionOrder (groupOf complete q)).map fun f => ⟨f.page, (livePages complete).any fun x => x.page == f.page⟩⟩

theorem State.census_remounted :
    s.remounted.census
      = (increasing ((livePages (mountComplete s.verdicts)).map Found.sequence)).map
        (mountedGroup (mountComplete s.verdicts)) := by
  obtain ⟨-, -, census, -⟩ := s.remounted_fields
  exact census

/-- A page of a group, at its place in position order. -/
theorem mountedGroup_pages {f : Found} (hf : f ∈ mountComplete s.verdicts) :
    ∃ F : Nat → Found, inPositionOrder (groupOf (mountComplete s.verdicts) f.sequence)
        = (List.range (groupOf (mountComplete s.verdicts) f.sequence).length).map F
      ∧ ∀ k < (groupOf (mountComplete s.verdicts) f.sequence).length,
        F k ∈ groupOf (mountComplete s.verdicts) f.sequence ∧ (F k).image.header.position = k + 1 := by
  have member := mountComplete_member hf
  obtain ⟨-, once, -⟩ := groupComplete_iff member.group
  refine inPositionOrder_eq member.few once fun x hx => ?_
  obtain ⟨mem, sequence⟩ := mem_groupOf.mp hx
  have := (mountComplete_member mem).within
  rwa [sequence] at this

/-- Every page of a group stands in its entry. -/
theorem mem_mountedGroup {f : Found} (hf : f ∈ mountComplete s.verdicts) :
    ⟨f.page, (livePages (mountComplete s.verdicts)).any fun x => x.page == f.page⟩
      ∈ (mountedGroup (mountComplete s.verdicts) f.sequence).pages := by
  refine List.mem_map.mpr ⟨f, ?_, rfl⟩
  have member := mountComplete_member hf
  have mem := mem_groupOf.mpr ⟨hf, rfl⟩
  obtain ⟨-, once, -⟩ := groupComplete_iff member.group
  have positive : 1 ≤ f.image.header.position := by
    have inRange := State.inRange_of_verdict (mountComplete_page hf)
    simp only [PageImage.inRange, Header.groupInRange, Bool.and_eq_true, decide_eq_true_eq] at inRange
    exact inRange.1.1.1.1.1
  have within := member.within
  have few := member.few
  unfold inPositionOrder
  refine List.mem_flatMap.mpr ⟨f.image.header.position - 1, List.mem_range.mpr (by omega), List.mem_filter.mpr ⟨mem, ?_⟩⟩
  rw [beq_iff_eq]
  omega

theorem mem_foundPages_of_complete {f : Found} (hf : f ∈ mountComplete s.verdicts) : f ∈ foundPages s.verdicts :=
  (mem_foundPages _ f).mpr (mountComplete_page hf)

/-- The next sequence lies above every page found (R34). -/
theorem State.remounted_sequence {f : Found} (hf : f ∈ foundPages s.verdicts) :
    f.sequence.toNat < s.remounted.nextSequence.toNat := by
  obtain ⟨-, -, -, next, -⟩ := s.remounted_fields
  obtain ⟨m, hm⟩ := latestPage_isSome (List.ne_nil_of_mem hf)
  obtain ⟨mem, above⟩ := latestPage_eq_some hm
  have valid := State.inRange_of_verdict ((mem_foundPages _ m).mp mem)
  have succ := toNat_lt_succ_of_ne_end (PageImage.sequence_ne_end valid)
  rw [next, mountedSequence, hm]
  exact lt_of_le_of_lt (above f hf) succ

theorem State.remounted_censusExact : s.remounted.CensusExact := by
  refine ⟨?_, fun e he => ?_, fun g hg => ?_⟩
  · rw [State.census_remounted, List.map_map]
    have : CensusEntry.sequence ∘ mountedGroup (mountComplete s.verdicts) = id := rfl
    rw [this, List.map_id]
    exact increasing_pairwise _
  · rw [State.census_remounted] at he
    obtain ⟨q, hq, rfl⟩ := List.mem_map.mp he
    rw [mem_increasing] at hq
    obtain ⟨f, hf, rfl⟩ := List.mem_map.mp hq
    have mem := (mem_livePages.mp hf).1
    have member := mountComplete_member mem
    obtain ⟨F, order, at_⟩ := mountedGroup_pages mem
    have length : (mountedGroup (mountComplete s.verdicts) f.sequence).pages.length
        = (groupOf (mountComplete s.verdicts) f.sequence).length := by
      simp [mountedGroup, order]
    refine ⟨State.remounted_sequence (mem_foundPages_of_complete mem), ?_, length ▸ member.few, fun k x hx => ?_⟩
    · rw [CensusEntry.live_pos_iff]
      exact ⟨_, mem_mountedGroup mem, List.any_eq_true.mpr ⟨f, hf, by simp⟩⟩
    · have lt : k < (groupOf (mountComplete s.verdicts) f.sequence).length :=
        length ▸ (List.getElem?_eq_some_iff.mp hx).1
      obtain ⟨inGroup, position⟩ := at_ k lt
      obtain ⟨memF, sequence⟩ := mem_groupOf.mp inGroup
      have page : x = ⟨(F k).page, (livePages (mountComplete s.verdicts)).any fun x => x.page == (F k).page⟩ := by
        simp only [mountedGroup, order, List.map_map, List.getElem?_map, List.getElem?_range lt, Option.map_some,
          Option.some.injEq] at hx
        exact hx.symm
      subst page
      have count := (groupComplete_iff member.group).1 (F k) inGroup
      refine ⟨(F k).image.header, ?_, sequence, position, count.trans length.symm⟩
      exact State.remounted_page_of_kept (mem_keptPages.mpr ⟨memF, f, hf, sequence.symm⟩)
  · obtain ⟨f, hf, rfl, -⟩ := State.remounted_kept ((PageEntry.isKept_iff _).mpr hg)
    obtain ⟨mem, x, hx, sequence⟩ := mem_keptPages.mp hf
    rw [State.census_remounted]
    refine ⟨_, List.mem_map.mpr ⟨f.sequence, ?_, rfl⟩, _, mem_mountedGroup mem, rfl⟩
    rw [mem_increasing]
    exact List.mem_map.mpr ⟨x, hx, sequence⟩

theorem State.remounted_tables : s.remounted.TablesFit where
  backed := State.remounted_recordsBacked
  census := State.remounted_censusExact
  bad := by
    obtain ⟨-, -, -, -, bad, -⟩ := s.remounted_fields
    rw [bad]
    exact (Table.count_eq_length_filter _ _).symm

/-! ## The end of a mount (R93) -/

theorem State.endMount_eq (s : State) :
    s.endMount s.verdicts = match epochPage (foundPages s.verdicts) with
      | some g => (({ s.remounted with store := .formatting }).notifyAll (.storeState .formatting)).sweep 0 (some g) []
      | none =>
        let st : StoreState := if Config.badLimit < s.remounted.badCount then .readOnly .media else .ready
        ({ s.remounted with store := st }).notifyAll (.storeState st) := rfl

theorem State.endMount_directory : (s.endMount s.verdicts).DirectoryConsistent := by
  have tables := State.remounted_tables (s := s)
  obtain ⟨-, -, -, -, -, job, op⟩ := s.remounted_fields
  have nothing : s.remounted.PendingOnly fun _ => False := fun g hg => by
    rw [State.remounted_not_pending] at hg
    cases hg
  rw [State.endMount_eq]
  split
  · next g hg =>
    have stale : s.remounted.page g = .stale := by
      obtain ⟨f, hf, rfl⟩ := Option.map_eq_some_iff.mp hg
      obtain ⟨mem, -⟩ := latestPage_eq_some hf
      rw [State.page_remounted, hg, (mem_foundPages _ f).mp (List.mem_of_mem_filter mem)]
      rfl
    have begins : (({ s.remounted with store := .formatting } : State).notifyAll (.storeState .formatting)).SweepReady 0
        (some g) [] :=
      State.SweepReady.begins (fun x hx => (nothing x hx).elim) fun x hx => .inl (by cases hx; exact stale)
    have kept : (({ s.remounted with store := .formatting } : State).notifyAll (.storeState .formatting)).TablesFit :=
      tables.congr rfl rfl rfl rfl rfl
    exact begins.directory kept (State.sweep_sweeps _ 0 (some g) [])
  · exact (tables.idle nothing job op).congr rfl rfl rfl rfl rfl rfl rfl

end

end Sys2Proof.Machine
end

section
/-! SUPPORT. O57, assembled command by command. -/

namespace Sys2Proof.Machine

theorem State.DirectoryConsistent.of_storeKept {s t : State} (h : s.DirectoryConsistent) (k : StoreKept s t) :
    t.DirectoryConsistent := h.congr k.records k.pages k.census k.nextSequence k.badCount k.job k.op

/-- In device reset the Directory is as it was lost: every page STALE, nothing stored (R82). -/
theorem State.lost_directory (s : State) (cut : CutOff) :
    ({ (s.cutOff cut).loseVolatile with inReset := true } : State).DirectoryConsistent := by
  have stale (g : PageNo) : ({ (s.cutOff cut).loseVolatile with inReset := true } : State).page g = .stale :=
    Table.get_fill _ g
  have unwritten (r : RecordNo) :
      ({ (s.cutOff cut).loseVolatile with inReset := true } : State).record r = .unwritten := Table.get_fill _ r
  have tables : ({ (s.cutOff cut).loseVolatile with inReset := true } : State).TablesFit := by
    refine ⟨⟨fun r g q hq => ?_, fun g k hk => ?_⟩,
      ⟨List.Pairwise.nil, fun e he => absurd he List.not_mem_nil, fun g hg => ?_⟩, ?_⟩
    · rw [unwritten] at hq
      cases hq
    · rw [stale] at hk
      cases hk
    · rw [stale] at hg
      rcases hg with hg | hg <;> cases hg
    · simp only [stale]
      exact (List.length_eq_zero_iff.mpr (List.filter_eq_nil_iff.mpr fun _ _ => Bool.false_ne_true)).symm
  refine tables.idle (fun g hg => ?_) rfl rfl
  rw [stale] at hg
  cases hg

theorem exec_keepsDirectory {c : Instr} {s t : State} (hs : s.StoreConsistent) (hq : s.QueueConsistent)
    (hb : s.StagingBounded) (hd : s.DirectoryConsistent) (h : exec c s = .next t) : t.DirectoryConsistent := by
  rcases leavesEngine_or c with quiet | ⟨x, y, z, rfl⟩ | ⟨cut, rfl⟩ | rfl | rfl | ⟨b, rfl⟩ | ⟨v, rfl⟩ | ⟨v, rfl⟩ | ⟨b, rfl⟩
  · exact hd.of_storeKept (exec_storeKept quiet h)
  · obtain ⟨same, -, job⟩ := exec_resetRelease h
    have tables := hd.tables.congr same.records same.pages same.census same.nextSequence same.badCount
    rcases job with hj | ⟨inReset, hj⟩
    · exact tables.withJob (hd.job.congr same.pages same.census same.nextSequence hj same.op)
    · obtain ⟨held, -⟩ := hs
      obtain ⟨op, nothing⟩ := hd.idleFits (held inReset).2
      refine tables.withJob ?_
      simp only [State.JobFits, hj]
      exact ⟨same.op.trans op, nothing.congr same.pages⟩
  · obtain rfl := exec_deviceReset h
    exact s.lost_directory cut
  · rcases exec_mountEnd h with rfl | ⟨-, -, rfl⟩
    · exact hd
    · exact State.endMount_directory
  · obtain rfl := exec_pfwDeassert h
    exact (hd.congr rfl rfl rfl rfl rfl rfl rfl : ({ s with pfw := false, hold := false } : State).DirectoryConsistent).resume
  · have kept : ({ s with pfw := s.pfw || b } : State).DirectoryConsistent := hd.congr rfl rfl rfl rfl rfl rfl rfl
    rcases exec_jobChoice h with rfl | ⟨-, -, hj, rfl⟩
    · exact kept
    · exact (State.takeUp_takesUp _ s.queue).directory kept hj fun e he => State.bounded_of_mem_queue hq hb he
  · rcases exec_pageProgramVerdict h with rfl | ⟨g, i, ho, ⟨-, rfl⟩ | ⟨mark, -, rfl⟩⟩
    · exact hd
    · exact hd.afterPass ho
    · exact hd.afterFail ho mark
  · rcases exec_pageEraseVerdict h with rfl | ⟨g, ho, rfl⟩
    · exact hd
    · exact hd.afterErase ho v
  · have kept : ({ s with pfw := s.pfw || b } : State).DirectoryConsistent := hd.congr rfl rfl rfl rfl rfl rfl rfl
    rcases exec_formatJobBegin h with rfl | ⟨-, -, hj, rfl⟩
    · exact kept
    · exact kept.beginFormat hj

/-- Settles O57: each operation of the engine hands the next a store that fits, and every other command leaves the
Directory alone. -/
theorem stepsKeepDirectory : Obligations.StepsKeepDirectory := by
  intro s t hs hq hb hd h
  rcases step_eq_exec h with rfl | ⟨c, rest, -, h⟩
  · exact hd
  · exact exec_keepsDirectory (s := { s with pending := rest }) hs hq hb
      (hd.congr rfl rfl rfl rfl rfl rfl rfl) h

end Sys2Proof.Machine
end

section
/-! SUPPORT. O59: where the array and the records change (R5, R8, R19). -/

namespace Sys2Proof.Machine

/-! ## The operations of the engine -/

/-- An operation of the engine that completes no run: records and array stand, or a format has ended. -/
def State.KeepsOrEnds (s t : State) : Prop :=
  StoreStep s t ∨ FormatEnded s t ∧ ∃ step noted, s.job = .format step noted

theorem FormatGoesOn.keepsOrEnds {s t u : State} {step : FormatStep} {noted : List NotedErase} (h : FormatGoesOn t u)
    (hs : StoreStep s t) (hq : t.queue = s.queue) (hj : s.job = .format step noted) : s.KeepsOrEnds u := by
  rcases FormatGoesOn.of_storeStep hs hq h with ⟨k, -⟩ | ended
  · exact .inl k
  · exact .inr ⟨ended, step, noted, hj⟩

theorem State.KeepsOrEnds.array {s t : State} (h : s.KeepsOrEnds t) : t.array = s.array := by
  rcases h with k | ⟨ended, -⟩
  · exact k.array
  · exact ended.array

theorem FormatGoesOn.array {s t : State} (h : FormatGoesOn s t) : t.array = s.array := by
  rcases h with ⟨k, -⟩ | ended
  · exact k.array
  · exact ended.array

theorem State.commitNext_storeStep (s : State) (run : ImageRun) (p : Port) (token : Token) :
    StoreStep s (s.programNext run fun u => u.commitMediaFailure p token) :=
  s.programNext_storeStep run fun t => t.commitMediaFailure_storeStep p token

theorem State.relocationNext_storeStep (s : State) (run : ImageRun) :
    StoreStep s (s.programNext run State.relocationMediaFailure) :=
  s.programNext_storeStep run fun t => t.relocationMediaFailure_storeStep

/-- Another job in the same store. -/
theorem State.withJob_storeStep (s : State) (job : Job) : StoreStep s { s with job := job } :=
  ⟨rfl, rfl, rfl, rfl, fun _ h => h⟩

/-- A run is complete with the program that has just passed on page `g`. -/
def State.RunCompletes (s : State) (g : PageNo) : Prop :=
  ∃ run : ImageRun, (run.verify g).complete = true
    ∧ ((∃ p token st, s.job = .commit p token st run) ∨ ∃ target, s.job = .relocate target run)

/-- After a passed program the array stands; the records too, unless the run is complete (R56, R59, R76, R77). -/
theorem State.afterPass_keeps (s : State) (g : PageNo) :
    (s.afterPass g).array = s.array ∧ ((s.afterPass g).records = s.records ∨ s.RunCompletes g) := by
  have kept {t : State} (h : StoreStep s t) : t.array = s.array ∧ (t.records = s.records ∨ s.RunCompletes g) :=
    ⟨h.array, .inl h.records⟩
  unfold State.afterPass
  split
  · next p token st run hj =>
    unfold State.commitPassed
    split
    · next complete =>
      obtain ⟨_, _, _, _, _, _, _, point⟩ := s.commitPoint_changes p token st (run.verify g)
      rw [point]
      exact ⟨rfl, .inr ⟨run, complete, .inl ⟨p, token, st, hj⟩⟩⟩
    · exact kept ((s.withJob_storeStep _).trans (State.commitNext_storeStep _ _ p token))
  · next target run hj =>
    unfold State.relocationPassed
    split
    · next complete =>
      obtain ⟨_, _, _, _, _, _, point⟩ := s.relocationPoint_changes (run.verify g)
      rw [point]
      exact ⟨rfl, .inr ⟨run, complete, .inr ⟨target, hj⟩⟩⟩
    · exact kept ((s.withJob_storeStep _).trans (State.relocationNext_storeStep _ _))
  · exact kept (s.sweep_sweeps _ _ _).goesOn_of_epochPage.1
  all_goals exact kept (.refl s)

theorem State.afterFail_keepsOrEnds (s : State) : s.KeepsOrEnds s.afterFail := by
  unfold State.afterFail
  split
  · next p token st run hj =>
    unfold State.commitFailed
    split
    · exact .inl ((s.withJob_storeStep _).trans (State.commitNext_storeStep _ _ p token))
    · exact .inl (s.commitMediaFailure_storeStep p token)
  · next target run hj =>
    unfold State.relocationFailed
    split
    · exact .inl ((s.withJob_storeStep _).trans (State.relocationNext_storeStep _ _))
    · exact .inl s.relocationMediaFailure_storeStep
  · next hj => exact (s.epochAttempt_attempts _ _ _).goesOn.keepsOrEnds (.refl s) rfl hj
  all_goals exact .inl (.refl s)

theorem State.afterErase_keepsOrEnds (s : State) (g : PageNo) (v : EraseVerdict) :
    s.KeepsOrEnds (s.afterErase g v) := by
  obtain ⟨settled, queue⟩ := s.settleErase_storeStep g v
  unfold State.afterErase
  split
  · exact .inl (settled.trans (State.endJob_storeStep _))
  · next hj => exact (State.epochAttempt_attempts _ _ _ _).goesOn.keepsOrEnds settled queue hj
  · next hj => exact (s.sweepVerdict_goesOn g v _ _).keepsOrEnds (.refl s) rfl hj
  · next hj =>
    exact FormatGoesOn.keepsOrEnds (.inr (State.formatEnd_ended _ _)) settled queue hj
  all_goals exact .inl (.refl s)

theorem State.resume_keepsOrEnds (s : State) : s.KeepsOrEnds s.resume := by
  unfold State.resume
  split
  · exact .inl (.refl s)
  · split
    · exact .inl (.refl s)
    · exact .inl (.refl s)
    · exact .inl (s.commitNext_storeStep _ _ _)
    · exact .inl (s.relocationNext_storeStep _)
    · exact .inl (s.issueErase_storeStep _)
    · next hj => exact (s.formatNext_goesOn _ _).keepsOrEnds (.refl s) rfl hj

theorem State.endMount_array (s : State) (v : Table PageVerdict 320) : (s.endMount v).array = s.array := by
  unfold State.endMount
  simp only
  split
  · exact (State.sweep_sweeps _ _ _ _).goesOn.array
  · rfl

/-! ## The array (R19) -/

theorem State.cutOff_array {s : State} {cut : CutOff} {g : PageNo} (h : (s.cutOff cut).array.get g ≠ s.array.get g) :
    s.op = some (.erase g) ∨ ∃ i, s.op = some (.program g i) := by
  unfold State.cutOff at h
  cases ho : s.op with
  | none =>
    rw [ho] at h
    exact absurd rfl h
  | some op =>
    cases op with
    | program x i =>
      simp only [ho, State.setArray_array, Table.get_set, ne_eq, ite_eq_right_iff, Classical.not_imp] at h
      obtain ⟨rfl, -⟩ := h
      exact .inr ⟨i, rfl⟩
    | erase x =>
      simp only [ho, State.setArray_array, Table.get_set, ne_eq, ite_eq_right_iff, Classical.not_imp] at h
      obtain ⟨rfl, -⟩ := h
      exact .inl rfl

/-- A page of the array changes at the verdict or the cut-off of the operation on it. -/
theorem exec_array {c : Instr} {s t : State} (h : exec c s = .next t) {g : PageNo}
    (hg : t.array.get g ≠ s.array.get g) :
    ((∃ verdict, c = .pageProgramVerdict verdict) ∧ (∃ i, s.op = some (.program g i)))
      ∨ ((∃ verdict, c = .pageEraseVerdict verdict) ∧ s.op = some (.erase g))
      ∨ (∃ cut, c = .deviceReset cut) ∧ (s.op = some (.erase g) ∨ ∃ i, s.op = some (.program g i)) := by
  have stands {u : State} (hu : u.array = s.array) (ht : t.array = u.array) : False := hg (by rw [ht, hu])
  rcases leavesEngine_or c with quiet | ⟨x, y, z, rfl⟩ | ⟨cut, rfl⟩ | rfl | rfl | ⟨b, rfl⟩ | ⟨v, rfl⟩ | ⟨v, rfl⟩ | ⟨b, rfl⟩
  · exact (stands rfl (exec_storeKept quiet h).array).elim
  · exact (stands rfl (exec_resetRelease h).1.array).elim
  · obtain rfl := exec_deviceReset h
    exact .inr (.inr ⟨⟨cut, rfl⟩, State.cutOff_array hg⟩)
  · rcases exec_mountEnd h with rfl | ⟨-, -, rfl⟩
    · exact (hg rfl).elim
    · exact (stands rfl (s.endMount_array _)).elim
  · obtain rfl := exec_pfwDeassert h
    exact (stands (u := { s with pfw := false, hold := false }) rfl (State.resume_keepsOrEnds _).array).elim
  · rcases exec_jobChoice h with rfl | ⟨-, -, -, rfl⟩
    · exact (hg rfl).elim
    · exact (stands (u := { s with pfw := s.pfw || b }) rfl (State.takeUp_takesUp _ s.queue).storeStep.array).elim
  · rcases exec_pageProgramVerdict h with rfl | ⟨x, i, ho, after⟩
    · exact (hg rfl).elim
    · have array (k : PageContent) (ht : t.array = (s.setArray x k).array) : g = x := by
        by_contra ne
        rw [ht, State.setArray_array, Table.get_set, if_neg ne] at hg
        exact hg rfl
      have same : g = x := by
        rcases after with ⟨-, rfl⟩ | ⟨mark, -, rfl⟩
        · exact array _ (State.afterPass_keeps _ x).1
        · exact array _ (State.afterFail_keepsOrEnds _).array
      exact .inl ⟨⟨v, rfl⟩, i, same ▸ ho⟩
  · rcases exec_pageEraseVerdict h with rfl | ⟨x, ho, rfl⟩
    · exact (hg rfl).elim
    · have array : ((s.eraseDone x v).afterErase x v).array = (s.setArray x (eraseContent v)).array :=
        (State.afterErase_keepsOrEnds _ x v).array
      have same : g = x := by
        by_contra ne
        rw [array, State.setArray_array, Table.get_set, if_neg ne] at hg
        exact hg rfl
      exact .inr (.inl ⟨⟨v, rfl⟩, same ▸ ho⟩)
  · rcases exec_formatJobBegin h with rfl | ⟨-, -, -, rfl⟩
    · exact (hg rfl).elim
    · exact (stands (u := { s with pfw := s.pfw || b }) rfl (State.beginFormat_goesOn _).array).elim

/-! ## The records (R5, R8) -/

/-- A format that has ended leaves nothing stored and the engine free (R168). -/
theorem FormatEnded.formatEndsAt {c : Instr} {s u t : State} (h : FormatEnded u t)
    (hc : (∃ together, c = .formatJobBegin together)
      ∨ (∃ step noted, s.job = .format step noted)
        ∧ (c = .pfwDeassert ∨ (∃ mark, c = .pageProgramVerdict (.fail mark)) ∨ ∃ verdict, c = .pageEraseVerdict verdict)) :
    FormatEndsAt c s t := by
  refine ⟨hc, h.job, fun r => ?_, fun w => ?_, h.census, h.nextSequence⟩
  · rw [State.record, h.records, Table.get_fill]
  · rw [h.windows, Table.get_fill]

/-- The records change at the completion of a run, the end of a mount, a device reset and the end of a format. -/
theorem exec_records {c : Instr} {s t : State} (h : exec c s = .next t) (hr : t.records ≠ s.records) :
    (c = .pageProgramVerdict .pass ∧ (∃ g i, s.op = some (.program g i))
        ∧ ∃ run : ImageRun, run.images.length ≤ run.verified.length + 1
          ∧ ((∃ p token staging, s.job = .commit p token staging run) ∨ ∃ target, s.job = .relocate target run))
      ∨ c = .mountEnd ∨ (∃ cut, c = .deviceReset cut) ∨ FormatEndsAt c s t := by
  rcases leavesEngine_or c with quiet | ⟨x, y, z, rfl⟩ | ⟨cut, rfl⟩ | rfl | rfl | ⟨b, rfl⟩ | ⟨v, rfl⟩ | ⟨v, rfl⟩ | ⟨b, rfl⟩
  · exact (hr (exec_storeKept quiet h).records).elim
  · exact (hr (exec_resetRelease h).1.records).elim
  · exact .inr (.inr (.inl ⟨cut, rfl⟩))
  · exact .inr (.inl rfl)
  · obtain rfl := exec_pfwDeassert h
    rcases State.resume_keepsOrEnds { s with pfw := false, hold := false } with k | ⟨ended, job⟩
    · exact (hr k.records).elim
    · exact .inr (.inr (.inr (ended.formatEndsAt (.inr ⟨job, .inl rfl⟩))))
  · rcases exec_jobChoice h with rfl | ⟨-, -, -, rfl⟩
    · exact (hr rfl).elim
    · exact (hr (State.takeUp_takesUp _ s.queue).storeStep.records).elim
  · rcases exec_pageProgramVerdict h with rfl | ⟨g, i, ho, ⟨rfl, rfl⟩ | ⟨mark, rfl, rfl⟩⟩
    · exact (hr rfl).elim
    · obtain ⟨-, records | ⟨run, complete, job⟩⟩ := State.afterPass_keeps (s.programPassed g i) g
      · exact (hr records).elim
      · refine .inl ⟨rfl, ⟨g, i, ho⟩, run, ?_, job⟩
        simpa [ImageRun.complete, ImageRun.verify] using complete
    · rcases State.afterFail_keepsOrEnds (s.programFailed g mark) with k | ⟨ended, job⟩
      · exact (hr k.records).elim
      · exact .inr (.inr (.inr (ended.formatEndsAt (.inr ⟨job, .inr (.inl ⟨mark, rfl⟩)⟩))))
  · rcases exec_pageEraseVerdict h with rfl | ⟨g, ho, rfl⟩
    · exact (hr rfl).elim
    · rcases State.afterErase_keepsOrEnds (s.eraseDone g v) g v with k | ⟨ended, job⟩
      · exact (hr k.records).elim
      · exact .inr (.inr (.inr (ended.formatEndsAt (.inr ⟨job, .inr (.inr ⟨v, rfl⟩)⟩))))
  · rcases exec_formatJobBegin h with rfl | ⟨-, -, -, rfl⟩
    · exact (hr rfl).elim
    · rcases State.beginFormat_goesOn { s with pfw := s.pfw || b } with ⟨k, -⟩ | ended
      · exact (hr k.records).elim
      · exact .inr (.inr (.inr (ended.formatEndsAt (.inl ⟨b, rfl⟩))))

end Sys2Proof.Machine
end

section
/-! SUPPORT. O59: how the pages of the Directory change, operation by operation (R23, Table 9). -/

namespace Sys2Proof.Machine

/-! ## What an operation does to one page -/

/-- One page at an operation of a commit or relocation that is not complete: as it was; allocated for the program then in
progress; or dropped with the job. -/
def State.RunMoves (s t : State) (x : PageNo) : Prop :=
  t.page x = s.page x
    ∨ (s.page x = .clean ∧ t.page x = .pending none ∧ ∃ i, t.op = some (.program x i))
    ∨ ((s.page x).isPending = true ∧ t.page x = .stale ∧ t.job = .idle)

/-- A failure that drops every PENDING page and frees the engine (R58, R78). -/
def DropsPending (fail : State → State) : Prop :=
  ∀ u x, (fail u).page x = u.dropPending.page x ∧ (fail u).job = .idle

theorem State.page_endJob (s : State) (x : PageNo) : s.endJob.page x = s.page x := by
  obtain ⟨_, _, _, _, e⟩ := s.endJob_changes
  rw [e]
  rfl

theorem dropsPending_commitMediaFailure (p : Port) (token : Token) :
    DropsPending fun u => u.commitMediaFailure p token := by
  refine fun u x => ⟨?_, u.commitMediaFailure_job p token⟩
  refine (State.page_endJob _ x).trans ?_
  rw [State.endFreeze_eq]
  rfl

theorem dropsPending_relocationMediaFailure : DropsPending State.relocationMediaFailure :=
  fun u x => ⟨State.page_endJob _ x, u.relocationMediaFailure_job⟩

theorem DropsPending.runMoves {fail : State → State} (h : DropsPending fail) (s : State) (x : PageNo) :
    s.RunMoves (fail s) x := by
  obtain ⟨page, job⟩ := h s x
  rw [State.page_dropPending] at page
  cases hp : (s.page x).isPending with
  | true => exact .inr (.inr ⟨hp, by rw [page, if_pos hp], job⟩)
  | false => exact .inl (by rw [page, if_neg (by simp [hp])])

theorem State.programNext_runMoves {s u : State} {run : ImageRun} {fail : State → State} (hf : DropsPending fail)
    (hu : u.pages = s.pages) (x : PageNo) : s.RunMoves (u.programNext run fail) x := by
  have page (y : PageNo) : u.page y = s.page y := by rw [State.page, hu]; rfl
  rcases u.programNext_cases run fail with e | ⟨-, -, e⟩ | ⟨i, g, -, -, hg, e⟩
  · rw [e]
    exact .inl (page x)
  · have moves := hf.runMoves { u with op := none } x
    rw [e]
    rcases moves with same | ⟨clean, rest⟩ | ⟨pending, rest⟩
    · exact .inl (same.trans (page x))
    · exact .inr (.inl ⟨(page x).symm.trans clean, rest⟩)
    · exact .inr (.inr ⟨page x ▸ pending, rest⟩)
  · rw [e]
    by_cases hx : x = g
    · subst hx
      exact .inr (.inl ⟨(page x).symm.trans (PageEntry.isClean_iff.mp (u.findClean_isClean hg)),
        (u.page_programs x i x).trans (if_pos rfl), i, rfl⟩)
    · exact .inl (((u.page_programs g i x).trans (if_neg hx)).trans (page x))

/-- One page at the second step of a format: as it was, or settled at the end of the format. -/
def State.SweepMoves (s t : State) (x : PageNo) : Prop :=
  t.page x = s.page x ∨ ((s.page x).isKept = true ∧ (t.page x = .clean ∨ t.page x = .bad) ∧ FormatEnded s t)

/-- The end of a format settles the noted pages, all of them stored, and no others (R29). -/
theorem State.formatEnd_moves {s : State} {noted : List NotedErase} (hs : s.TablesFit)
    (nodup : (noted.map NotedErase.page).Nodup) (kept : ∀ n ∈ noted, (s.page n.page).isKept = true) (x : PageNo) :
    s.SweepMoves (s.formatEnd noted) x := by
  obtain ⟨settled, others⟩ := State.page_formatEnd hs.bad nodup kept
  by_cases hx : x ∈ noted.map NotedErase.page
  · obtain ⟨n, hn, rfl⟩ := List.mem_map.mp hx
    refine .inr ⟨kept n hn, ?_, s.formatEnd_ended noted⟩
    rw [settled n hn]
    cases n.erased
    · exact .inr rfl
    · exact .inl rfl
  · exact .inl (others x hx)

theorem State.SweepReady.moves {s t : State} {next : Nat} {epochPage : Option PageNo} {noted : List NotedErase}
    (h : s.SweepReady next epochPage noted) (hs : s.TablesFit) (hw : s.Sweeps next epochPage noted t) (x : PageNo) :
    s.SweepMoves t x := by
  cases hw with
  | erase _ => exact .inl (State.page_issueErase _ _ x)
  | eraseEpoch _ _ => exact .inl (State.page_issueErase _ _ x)
  | ends _ _ => exact State.formatEnd_moves hs h.nodup h.kept x

/-- A step that may end the format with nothing noted settles nothing. -/
theorem State.Sweeps.same_pages {s t : State} {next : Nat} {epochPage : Option PageNo}
    (h : s.Sweeps next epochPage [] t) (x : PageNo) : t.page x = s.page x := by
  cases h with
  | erase _ => exact State.page_issueErase _ _ x
  | eraseEpoch _ _ => exact State.page_issueErase _ _ x
  | ends _ _ => rfl

/-- An attempt at the epoch page allocates a page, or changes none (R166). -/
theorem State.AttemptsEpoch.moves {s t : State} {q : Sequence} {failures : Nat} (h : s.AttemptsEpoch q failures [] t)
    (x : PageNo) :
    t.page x = s.page x ∨ s.page x = .clean ∧ t.page x = .pending none ∧ ∃ i, t.op = some (.program x i) := by
  cases h with
  | givesUp h => exact .inl (h.same_pages x)
  | waits => exact .inl rfl
  | @programs g hg =>
    by_cases hx : x = g
    · subst hx
      exact .inr ⟨PageEntry.isClean_iff.mp (s.findClean_isClean hg),
        (State.page_programs _ x (epochImage q) x).trans (if_pos rfl), epochImage q, rfl⟩
    · exact .inl ((State.page_programs _ g (epochImage q) x).trans (if_neg hx))
  | erases _ => exact .inl rfl
  | noPage h => exact .inl (h.same_pages x)

/-! ## The moves of Table 9 -/

section
variable {c : Instr} {s t : State} {x : PageNo}

theorem pageMoves_of_allocated (hs : s.page x = .clean) (ht : t.page x = .pending none)
    (hop : ∃ i, t.op = some (.program x i)) : PageMoves c s t x (s.page x) (t.page x) := by
  rw [hs, ht]
  exact hop

theorem pageMoves_of_dropped (hs : (s.page x).isPending = true) (ht : t.page x = .stale)
    (hc : c = .pfwDeassert ∨ ∃ verdict, c = .pageProgramVerdict verdict) (hj : t.job = .idle)
    (notFormat : ∀ step noted, s.job ≠ .format step noted) : PageMoves c s t x (s.page x) (t.page x) := by
  rw [ht]
  cases hp : s.page x with
  | pending h => cases h <;> exact ⟨hc, hj, notFormat⟩
  | clean => simp [hp, PageEntry.isPending] at hs
  | live _ => simp [hp, PageEntry.isPending] at hs
  | retained _ => simp [hp, PageEntry.isPending] at hs
  | stale => simp [hp, PageEntry.isPending] at hs
  | bad => simp [hp, PageEntry.isPending] at hs

theorem pageMoves_of_settled (hs : (s.page x).isKept = true) (ht : t.page x = .clean ∨ t.page x = .bad)
    (hf : FormatEndsAt c s t) : PageMoves c s t x (s.page x) (t.page x) := by
  cases hp : s.page x with
  | live _ => rcases ht with ht | ht <;> rw [ht] <;> exact hf
  | retained _ => rcases ht with ht | ht <;> rw [ht] <;> exact hf
  | clean => simp [hp, PageEntry.isKept, PageEntry.isLive, PageEntry.isRetained] at hs
  | pending _ => simp [hp, PageEntry.isKept, PageEntry.isLive, PageEntry.isRetained] at hs
  | stale => simp [hp, PageEntry.isKept, PageEntry.isLive, PageEntry.isRetained] at hs
  | bad => simp [hp, PageEntry.isKept, PageEntry.isLive, PageEntry.isRetained] at hs

/-- The moves of a run at the commands that may give it up. -/
theorem State.RunMoves.pageMoves (h : s.RunMoves t x)
    (hc : c = .pfwDeassert ∨ ∃ verdict, c = .pageProgramVerdict verdict)
    (notFormat : ∀ step noted, s.job ≠ .format step noted) :
    t.page x = s.page x ∨ PageMoves c s t x (s.page x) (t.page x) := by
  rcases h with same | ⟨hs, ht, hop⟩ | ⟨hs, ht, hj⟩
  · exact .inl same
  · exact .inr (pageMoves_of_allocated hs ht hop)
  · exact .inr (pageMoves_of_dropped hs ht hc hj notFormat)

/-- The moves of the second step of a format, at a command that may end it. -/
theorem State.SweepMoves.pageMoves {u : State} (h : u.SweepMoves t x) (hu : u.page x = s.page x)
    (hc : (∃ together, c = .formatJobBegin together)
      ∨ (∃ step noted, s.job = .format step noted)
        ∧ (c = .pfwDeassert ∨ (∃ mark, c = .pageProgramVerdict (.fail mark)) ∨ ∃ verdict, c = .pageEraseVerdict verdict)) :
    t.page x = s.page x ∨ PageMoves c s t x (s.page x) (t.page x) := by
  rcases h with same | ⟨hs, ht, ended⟩
  · exact .inl (same.trans hu)
  · exact .inr (pageMoves_of_settled (hu ▸ hs) ht (ended.formatEndsAt hc))

/-- The moves of an attempt at the epoch page. -/
theorem State.AttemptsEpoch.pageMoves {u : State} {q : Sequence} {failures : Nat} (h : u.AttemptsEpoch q failures [] t)
    (hu : u.page x = s.page x) : t.page x = s.page x ∨ PageMoves c s t x (s.page x) (t.page x) := by
  rcases h.moves x with same | ⟨clean, pending, op⟩
  · exact .inl (same.trans hu)
  · exact .inr (pageMoves_of_allocated (hu.symm.trans clean) pending op)

end

/-! ## A program that passes (R26, R30, R67) -/

section
variable {s : State} (h : s.DirectoryConsistent) {g : PageNo} {i : PageImage} (ho : s.op = some (.program g i))
include h ho

/-- What one page is after the pass, given how the run goes on. -/
theorem pageMoves_of_passed {t : State} {x : PageNo} (notFormat : ∀ step noted, s.job ≠ .format step noted)
    (hm : (s.programPassed g i).RunMoves t x) :
    t.page x = s.page x ∨ PageMoves (.pageProgramVerdict .pass) s t x (s.page x) (t.page x) := by
  have old := h.page_program ho
  by_cases hx : x = g
  · subst hx
    have passed : (s.programPassed x i).page x = .pending (some i.header) := by rw [State.page_programPassed, if_pos rfl]
    rcases hm with same | ⟨clean, -⟩ | ⟨-, stale, hj⟩
    · rw [passed] at same
      rw [old, same]
      exact .inr ⟨rfl, i, ho, rfl⟩
    · rw [passed] at clean
      cases clean
    · exact .inr (pageMoves_of_dropped (by rw [old]; rfl) stale (.inr ⟨_, rfl⟩) hj notFormat)
  · have passed : (s.programPassed g i).page x = s.page x := by rw [State.page_programPassed, if_neg hx]
    unfold State.RunMoves at hm
    rw [passed] at hm
    exact State.RunMoves.pageMoves hm (.inr ⟨_, rfl⟩) notFormat

/-- What one page is after the completion of a run (R30, R59, R66, R67). -/
theorem pageMoves_of_completed {t : State} {x : PageNo} {run : ImageRun} {relocated : Bool}
    (hf : s.RunFits run relocated) (complete : (run.verify g).complete = true)
    (ht : t.page x = (s.runCompleted run g i).page x) :
    t.page x = s.page x ∨ PageMoves (.pageProgramVerdict .pass) s t x (s.page x) (t.page x) := by
  have hl := hf.length_of_complete ho complete
  have tables := hf.tablesPassed ho h.tables
  have verified := hf.lastPassed ho hl
  rw [ht]
  by_cases mem : x ∈ run.verified ++ [g]
  · obtain ⟨k, image, hi, hk, pending⟩ := verified.exists_image mem
    have live : (s.runCompleted run g i).page x = .live image.header :=
      State.completed_page_of_run tables.backed tables.census verified hi hk
    rw [State.page_programPassed] at pending
    rw [live]
    by_cases hx : x = g
    · subst hx
      rw [if_pos rfl] at pending
      have header : i.header = image.header := Option.some.inj (PageEntry.pending.inj pending)
      rw [h.page_program ho]
      exact .inr ⟨rfl, i, ho, header.symm⟩
    · rw [if_neg hx] at pending
      rw [pending]
      exact .inr ⟨rfl, rfl⟩
  · have other : x ≠ g := fun e => mem (by simp [e])
    have old : (s.programPassed g i).page x = s.page x := by rw [State.page_programPassed, if_neg other]
    have page : (s.runCompleted run g i).page x = _ :=
      State.completed_page_of_other tables.backed tables.census verified mem
    rw [page]
    rcases State.pageWithout_cases tables.census (State.isLive_of_gone tables.backed _) x with
      ⟨-, same⟩ | ⟨d, -, live, retained⟩ | ⟨kept, stale⟩
    · exact .inl (same.trans old)
    · rw [old] at live
      rw [retained, live]
      exact .inr ⟨rfl, rfl⟩
    · rw [old] at kept
      rw [stale]
      right
      cases hp : s.page x with
      | live _ => rfl
      | retained _ => rfl
      | clean => simp [hp, PageEntry.isKept, PageEntry.isLive, PageEntry.isRetained] at kept
      | pending _ => simp [hp, PageEntry.isKept, PageEntry.isLive, PageEntry.isRetained] at kept
      | stale => simp [hp, PageEntry.isKept, PageEntry.isLive, PageEntry.isRetained] at kept
      | bad => simp [hp, PageEntry.isKept, PageEntry.isLive, PageEntry.isRetained] at kept

omit h ho in
theorem State.page_commitPoint (run : ImageRun) (p : Port) (token : Token) (st : Staging) (x : PageNo) :
    ((s.programPassed g i).commitPoint p token st (run.verify g)).page x = (s.runCompleted run g i).page x := by
  obtain ⟨_, _, _, announced⟩ := ((s.runCompleted run g i).commitTold p token st run.sequence).announce_changes p st
    (run.verify g)
  have point : (s.programPassed g i).commitPoint p token st (run.verify g)
      = ((((s.runCompleted run g i).commitTold p token st run.sequence).announce p st (run.verify g)).endFreeze p).endJob :=
    rfl
  rw [point, State.page_endJob, State.endFreeze_eq, announced]
  rfl

theorem State.page_afterPass (x : PageNo) :
    ((s.programPassed g i).afterPass g).page x = s.page x
      ∨ PageMoves (.pageProgramVerdict .pass) s ((s.programPassed g i).afterPass g) x (s.page x)
        (((s.programPassed g i).afterPass g).page x) := by
  have job : (s.programPassed g i).job = s.job := rfl
  unfold State.afterPass
  rcases h.program_cases ho with ⟨p, token, st, run, hj, fits⟩ | ⟨target, run, hj, fits, -⟩ | ⟨q, failures, hj, old, -⟩
  · rw [job, hj]
    simp only [State.commitPassed]
    split
    · next complete => exact pageMoves_of_completed h ho fits complete (State.page_commitPoint run p token st x)
    · exact pageMoves_of_passed h ho (by simp [hj])
        (State.programNext_runMoves (dropsPending_commitMediaFailure p token) (by rfl) x)
  · rw [job, hj]
    simp only [State.relocationPassed]
    split
    · next complete => exact pageMoves_of_completed h ho fits complete (State.page_endJob _ x)
    · exact pageMoves_of_passed h ho (by simp [hj])
        (State.programNext_runMoves dropsPending_relocationMediaFailure (by rfl) x)
  · rw [job, hj]
    simp only
    rw [(State.sweep_sweeps (s.programPassed g i) 0 (some g) []).same_pages x, State.page_programPassed]
    by_cases hx : x = g
    · subst hx
      rw [if_pos rfl, old]
      exact .inr ⟨rfl, i, ho, rfl⟩
    · rw [if_neg hx]
      exact .inl rfl

/-! ## A program that fails (R27, R30) -/

theorem State.page_afterFail (mark : MarkOutcome) (x : PageNo) :
    (s.programFailed g mark).afterFail.page x = s.page x
      ∨ PageMoves (.pageProgramVerdict (.fail mark)) s (s.programFailed g mark).afterFail x (s.page x)
        ((s.programFailed g mark).afterFail.page x) := by
  have job : (s.programFailed g mark).job = s.job := rfl
  have old := h.page_program ho
  have retired : (s.programFailed g mark).page g = .bad := by rw [State.page_programFailed, if_pos rfl]
  have isBad {t : State} (ht : t.page g = .bad) : PageMoves (.pageProgramVerdict (.fail mark)) s t g (s.page g) (t.page g) := by
    rw [old, ht]
    exact ⟨⟨mark, rfl⟩, i, ho⟩
  have moves {t : State} (notFormat : ∀ step noted, s.job ≠ .format step noted)
      (hm : (s.programFailed g mark).RunMoves t x) :
      t.page x = s.page x ∨ PageMoves (.pageProgramVerdict (.fail mark)) s t x (s.page x) (t.page x) := by
    by_cases hx : x = g
    · subst hx
      rcases hm with same | ⟨clean, -⟩ | ⟨pending, -⟩
      · exact .inr (isBad (same.trans retired))
      · rw [retired] at clean
        cases clean
      · rw [retired] at pending
        cases pending
    · unfold State.RunMoves at hm
      rw [State.page_programFailed, if_neg hx] at hm
      exact State.RunMoves.pageMoves hm (.inr ⟨_, rfl⟩) notFormat
  unfold State.afterFail
  rcases h.program_cases ho with ⟨p, token, st, run, hj, -⟩ | ⟨target, run, hj, -, -⟩ | ⟨q, failures, hj, -, -⟩
  · rw [job, hj]
    simp only [State.commitFailed]
    split
    · exact moves (by simp [hj]) (State.programNext_runMoves (dropsPending_commitMediaFailure p token) (by rfl) x)
    · exact moves (by simp [hj]) ((dropsPending_commitMediaFailure p token).runMoves _ x)
  · rw [job, hj]
    simp only [State.relocationFailed]
    split
    · exact moves (by simp [hj]) (State.programNext_runMoves dropsPending_relocationMediaFailure (by rfl) x)
    · exact moves (by simp [hj]) (dropsPending_relocationMediaFailure.runMoves _ x)
  · rw [job, hj]
    simp only
    by_cases hx : x = g
    · subst hx
      rcases (State.epochAttempt_attempts (s.programFailed x mark) q (failures + 1) []).moves x with same | ⟨clean, -⟩
      · exact .inr (isBad (same.trans retired))
      · rw [retired] at clean
        cases clean
    · have page : (s.programFailed g mark).page x = s.page x := by rw [State.page_programFailed, if_neg hx]
      exact (State.epochAttempt_attempts (s.programFailed g mark) q (failures + 1) []).pageMoves page

end

end Sys2Proof.Machine
end

section
/-! SUPPORT. O59: the erases, the resumption, the job choice and the format; and the statement, assembled. -/

namespace Sys2Proof.Machine

/-! ## An erase that has its verdict (R28, R29, R167) -/

/-- The verdict of an erase of a STALE page settles it (R28). -/
theorem pageMoves_of_erased {s t : State} {x : PageNo} {v : EraseVerdict} (ho : s.op = some (.erase x))
    (hs : s.page x = .stale) (ht : t.page x = erasedEntry v) :
    PageMoves (.pageEraseVerdict v) s t x (s.page x) (t.page x) := by
  rw [hs, ht]
  cases v with
  | erased => exact ⟨rfl, ho⟩
  | failed mark => exact ⟨⟨mark, rfl⟩, ho⟩

/-- A page that the second step is to erase and that is not stored is STALE (R167). -/
theorem State.SweepReady.stale_of_target {s : State} {next : Nat} {epochPage : Option PageNo} {noted : List NotedErase}
    (h : s.SweepReady next epochPage noted) {g : PageNo} (target : s.sweepTarget next epochPage = some g)
    (hk : (s.page g).isKept = false) : s.page g = .stale := by
  obtain ⟨-, notClean, notBad, notEpoch⟩ := State.sweepTarget_eq_some target
  cases hp : s.page g with
  | stale => rfl
  | clean => rw [hp] at notClean; cases notClean
  | bad => rw [hp] at notBad; cases notBad
  | live _ => rw [hp] at hk; cases hk
  | retained _ => rw [hp] at hk; cases hk
  | pending _ => exact absurd (h.pending g (by rw [hp]; rfl)) notEpoch

section
variable {s : State} (h : s.DirectoryConsistent) {g : PageNo} (ho : s.op = some (.erase g)) (v : EraseVerdict)

/-- The settled erase, page by page. -/
theorem State.page_eraseSettled (x : PageNo) :
    ((s.eraseDone g v).settleErase g v).page x = if x = g then erasedEntry v else s.page x :=
  State.page_settleErase _ g v x

/-- A verdict of an erase in a format may end it. -/
theorem mayEnd_of_eraseVerdict {step : FormatStep} {noted : List NotedErase} (hj : s.job = .format step noted) :
    (∃ step noted, s.job = .format step noted)
      ∧ (Instr.pageEraseVerdict v = .pfwDeassert ∨ (∃ mark, Instr.pageEraseVerdict v = .pageProgramVerdict (.fail mark))
        ∨ ∃ verdict, Instr.pageEraseVerdict v = .pageEraseVerdict verdict) :=
  ⟨⟨step, noted, hj⟩, .inr (.inr ⟨v, rfl⟩)⟩

include h ho

theorem State.page_sweepVerdict {next : Nat} {epochPage : Option PageNo} {noted : List NotedErase}
    (hj : s.job = .format (.sweep next epochPage) noted) (target : s.sweepTarget next epochPage = some g) (x : PageNo) :
    ((s.eraseDone g v).sweepVerdict g v epochPage noted).page x = s.page x
      ∨ PageMoves (.pageEraseVerdict v) s ((s.eraseDone g v).sweepVerdict g v epochPage noted) x (s.page x)
        (((s.eraseDone g v).sweepVerdict g v epochPage noted).page x) := by
  have tables : (s.eraseDone g v).TablesFit := h.tables.congr rfl rfl rfl rfl rfl
  have ready : (s.eraseDone g v).SweepReady next epochPage noted := (h.sweepReady hj).1.congr rfl
  obtain ⟨-, -, notBad, -⟩ := State.sweepTarget_eq_some target
  unfold State.sweepVerdict
  split
  · next hk =>
    exact ((ready.note target hk _).moves tables (State.sweep_sweeps _ _ _ _) x).pageMoves rfl
      (.inr (mayEnd_of_eraseVerdict v hj))
  · next hk =>
    have hk : ((s.eraseDone g v).page g).isKept = false := by simpa [PageEntry.isKept] using hk
    have moves := (ready.settle target hk v).moves (tables.settleErase hk notBad v) (State.sweep_sweeps _ _ _ _) x
    by_cases hx : x = g
    · subst hx
      rcases moves with same | ⟨kept, -⟩
      · exact .inr (pageMoves_of_erased ho (ready.stale_of_target target hk)
          (same.trans ((State.page_eraseSettled v x).trans (if_pos rfl))))
      · rw [State.page_eraseSettled, if_pos rfl, (erasedEntry_facts v).1] at kept
        cases kept
    · exact moves.pageMoves ((State.page_eraseSettled v x).trans (if_neg hx)) (.inr (mayEnd_of_eraseVerdict v hj))

theorem State.page_epochVerdict {noted : List NotedErase} (hj : s.job = .format (.eraseEpoch g) noted) (x : PageNo) :
    (((s.eraseDone g v).settleErase g v).formatEnd noted).page x = s.page x
      ∨ PageMoves (.pageEraseVerdict v) s (((s.eraseDone g v).settleErase g v).formatEnd noted) x (s.page x)
        ((((s.eraseDone g v).settleErase g v).formatEnd noted).page x) := by
  have tables : (s.eraseDone g v).TablesFit := h.tables.congr rfl rfl rfl rfl rfl
  obtain ⟨nodup, kept, -⟩ := h.formatFits hj
  obtain ⟨-, -, -, page⟩ := h.eraseEpochFits hj
  have old : (s.page g).isKept = false ∧ (s.page g).isBad = false := by
    rcases page with page | ⟨_, page⟩ <;> rw [page] <;> exact ⟨rfl, rfl⟩
  have notNoted (n : NotedErase) (hn : n ∈ noted) : n.page ≠ g := fun e => by
    have := kept n hn
    rw [e, old.1] at this
    cases this
  have moves := State.formatEnd_moves (tables.settleErase old.1 old.2 v) nodup (fun n hn => by
    rw [State.page_eraseSettled, if_neg (notNoted n hn)]
    exact kept n hn) x
  by_cases hx : x = g
  · subst hx
    have erased : ((s.eraseDone x v).settleErase x v).page x = erasedEntry v :=
      (State.page_eraseSettled v x).trans (if_pos rfl)
    rcases moves with same | ⟨kept, -⟩
    · rcases page with page | ⟨k, page⟩
      · exact .inr (pageMoves_of_erased ho page (same.trans erased))
      · right
        rw [same, erased, page]
        cases v with
        | erased => exact ⟨rfl, noted, hj⟩
        | failed mark => exact ⟨⟨mark, rfl⟩, noted, hj⟩
    · rw [erased, (erasedEntry_facts v).1] at kept
      cases kept
  · exact moves.pageMoves ((State.page_eraseSettled v x).trans (if_neg hx)) (.inr (mayEnd_of_eraseVerdict v hj))

theorem State.page_afterErase (x : PageNo) :
    ((s.eraseDone g v).afterErase g v).page x = s.page x
      ∨ PageMoves (.pageEraseVerdict v) s ((s.eraseDone g v).afterErase g v) x (s.page x)
        (((s.eraseDone g v).afterErase g v).page x) := by
  have job : (s.eraseDone g v).job = s.job := rfl
  have settled := State.page_eraseSettled (s := s) (g := g) v x
  unfold State.afterErase
  rcases h.erase_cases ho with ⟨hj, page, -⟩ | ⟨q, failures, hj, page, -⟩ | ⟨next, epochPage, noted, hj, -, target⟩
    | ⟨noted, hj⟩
  · rw [job, hj]
    by_cases hx : x = g
    · subst hx
      exact .inr (pageMoves_of_erased ho page ((State.page_endJob _ x).trans (settled.trans (if_pos rfl))))
    · exact .inl ((State.page_endJob _ x).trans (settled.trans (if_neg hx)))
  · rw [job, hj]
    have attempts := State.epochAttempt_attempts ((s.eraseDone g v).settleErase g v) q failures []
    by_cases hx : x = g
    · subst hx
      rw [if_pos rfl] at settled
      rcases attempts.moves x with same | ⟨clean, pending, -⟩
      · exact .inr (pageMoves_of_erased ho page (same.trans settled))
      · have succeeded : v = .erased := by
          rw [settled] at clean
          cases v with
          | erased => rfl
          | failed _ => cases clean
        simp only
        rw [page, pending, succeeded]
        exact .inr ⟨rfl, ho, q, failures, [], hj⟩
    · exact attempts.pageMoves (settled.trans (if_neg hx))
  · rw [job, hj]
    exact State.page_sweepVerdict h ho v hj target x
  · rw [job, hj]
    exact State.page_epochVerdict h ho v hj x

end

/-! ## The other commands of the engine (R69, R98, R165) -/

section
variable {s : State} (h : s.DirectoryConsistent) (x : PageNo)
include h

theorem State.page_resume :
    s.resume.page x = s.page x ∨ PageMoves .pfwDeassert s s.resume x (s.page x) (s.resume.page x) := by
  unfold State.resume
  split
  · exact .inl rfl
  · next ho =>
    split
    · exact .inl rfl
    · exact .inl rfl
    · next p token st run hj =>
      exact (State.programNext_runMoves (dropsPending_commitMediaFailure p token) rfl x).pageMoves (.inl rfl)
        (by simp [hj])
    · next target run hj =>
      exact (State.programNext_runMoves dropsPending_relocationMediaFailure rfl x).pageMoves (.inl rfl) (by simp [hj])
    · exact .inl (State.page_issueErase _ _ x)
    · next step noted hj =>
      cases step with
      | epoch q failures =>
        obtain ⟨-, -, rfl, -⟩ := h.formatFits hj
        exact (s.epochAttempt_attempts q failures []).pageMoves rfl
      | sweep next epochPage =>
        exact ((h.sweepReady hj).1.moves h.tables (s.sweep_sweeps next epochPage noted) x).pageMoves rfl
          (.inr ⟨⟨_, _, hj⟩, .inl rfl⟩)
      | eraseEpoch g => exact .inl (State.page_issueErase _ _ x)

/-- No page is PENDING while the engine is idle, so a start that gives up drops none. -/
theorem State.RunMoves.of_idle {t : State} (hm : s.RunMoves t x) (hj : s.job = .idle) :
    t.page x = s.page x ∨ s.page x = .clean ∧ t.page x = .pending none ∧ ∃ i, t.op = some (.program x i) := by
  rcases hm with same | allocated | ⟨pending, -⟩
  · exact .inl same
  · exact .inr allocated
  · exact ((h.idleFits hj).2 x pending).elim

end

/-- One page at a job choice: as it was, or allocated for the first program of the job (R55, R75). -/
def State.StartMoves (s t : State) (x : PageNo) : Prop :=
  t.page x = s.page x ∨ s.page x = .clean ∧ t.page x = .pending none ∧ ∃ i, t.op = some (.program x i)

section
variable {s : State} (h : s.DirectoryConsistent) (hj : s.job = .idle) (x : PageNo)

theorem State.page_enterReadOnly (s : State) (r : ReadOnlyReason) (x : PageNo) : (s.enterReadOnly r).page x = s.page x := by
  obtain ⟨_, _, e⟩ := s.enterReadOnly_changes r
  rw [e]
  rfl

include h hj

theorem State.startCommit_moves (e : QueueEntry) : s.StartMoves (s.startCommit e) x := by
  rw [State.startCommit_eq]
  split
  · exact .inl (s.page_enterReadOnly _ x)
  · exact State.RunMoves.of_idle h x (State.programNext_runMoves (dropsPending_commitMediaFailure e.port e.token)
      (u := s.commitBegun e) rfl x) hj

theorem State.startRelocation_moves (e : CensusEntry) : s.StartMoves (s.startRelocation e) x := by
  rw [State.startRelocation_eq]
  split
  · exact .inl (s.page_enterReadOnly _ x)
  · exact State.RunMoves.of_idle h x (State.programNext_runMoves dropsPending_relocationMediaFailure
      (u := s.relocationBegun e) rfl x) hj

theorem State.Reclaims.moves {t : State} (hr : s.Reclaims t) : s.StartMoves t x := by
  cases hr with
  | erase _ => exact .inl (State.page_issueErase _ _ x)
  | relocate _ => exact State.startRelocation_moves h hj x _
  | nothing => exact .inl rfl
  | space => exact .inl (s.page_enterReadOnly _ x)

end

theorem State.TakesUp.moves {s t : State} {l : List QueueEntry} (ht : State.TakesUp s l t) (h : s.DirectoryConsistent)
    (hj : s.job = .idle) (x : PageNo) : s.StartMoves t x := by
  induction ht with
  | reclaims hr => exact hr.moves h hj x
  | starts _ => exact State.startCommit_moves h hj x _
  | @fails s t e rest r record _ ih =>
    obtain ⟨_, _, failed⟩ := s.failQueued_changes e r record true
    rw [failed] at ih
    exact ih (h.congr rfl rfl rfl rfl rfl rfl rfl) hj

theorem State.page_beginFormat (s : State) (x : PageNo) :
    s.StartMoves s.beginFormat x := by
  unfold State.beginFormat
  split
  · exact .inl ((s.sweep_sweeps 0 none []).same_pages x)
  · exact (State.epochAttempt_attempts { s with nextSequence := s.nextSequence + 1 } _ 0 []).moves x

/-! ## The statement -/

/-- A page of the Directory changes as Table 9 gives, at its event. -/
theorem exec_pageMoves {c : Instr} {s t : State} (hd : s.DirectoryConsistent) (h : exec c s = .next t)
    (notMount : c ≠ .mountEnd) (notReset : ∀ cut, c ≠ .deviceReset cut) (x : PageNo) :
    t.page x = s.page x ∨ PageMoves c s t x (s.page x) (t.page x) := by
  have same {u : State} (hu : u.pages = s.pages) : u.page x = s.page x := by rw [State.page, hu]; rfl
  rcases leavesEngine_or c with quiet | ⟨a, b, d, rfl⟩ | ⟨cut, rfl⟩ | rfl | rfl | ⟨b, rfl⟩ | ⟨v, rfl⟩ | ⟨v, rfl⟩ | ⟨b, rfl⟩
  · exact .inl (same (exec_storeKept quiet h).pages)
  · exact .inl (same (exec_resetRelease h).1.pages)
  · exact absurd rfl (notReset cut)
  · exact absurd rfl notMount
  · obtain rfl := exec_pfwDeassert h
    have kept : ({ s with pfw := false, hold := false } : State).DirectoryConsistent := hd.congr rfl rfl rfl rfl rfl rfl rfl
    exact State.page_resume kept x
  · rcases exec_jobChoice h with rfl | ⟨-, -, hj, rfl⟩
    · exact .inl rfl
    · have kept : ({ s with pfw := s.pfw || b } : State).DirectoryConsistent := hd.congr rfl rfl rfl rfl rfl rfl rfl
      rcases (State.takeUp_takesUp _ s.queue).moves kept hj x with e | ⟨clean, pending, op⟩
      · exact .inl e
      · exact .inr (pageMoves_of_allocated clean pending op)
  · rcases exec_pageProgramVerdict h with rfl | ⟨g, i, ho, ⟨rfl, rfl⟩ | ⟨mark, rfl, rfl⟩⟩
    · exact .inl rfl
    · exact State.page_afterPass hd ho x
    · exact State.page_afterFail hd ho mark x
  · rcases exec_pageEraseVerdict h with rfl | ⟨g, ho, rfl⟩
    · exact .inl rfl
    · exact State.page_afterErase hd ho v x
  · rcases exec_formatJobBegin h with rfl | ⟨-, -, hj, rfl⟩
    · exact .inl rfl
    · rcases State.page_beginFormat { s with pfw := s.pfw || b } x with e | ⟨clean, pending, op⟩
      · exact .inl e
      · exact .inr (pageMoves_of_allocated clean pending op)

/-- Settles O59: what each command changes, out of what each operation of the engine changes. -/
theorem storeChangesAtItsEvents : Obligations.StoreChangesAtItsEvents := by
  intro c s t h
  refine ⟨fun hc => ?_, fun g hg => exec_array h hg, exec_records h, fun _ hd notMount notReset g =>
    exec_pageMoves hd h notMount notReset g⟩
  have same : SameStore s t := by
    rcases hc with port | tick | expiry | assert | hold | ⟨a, b, d, rfl⟩
    · exact (exec_storeKept (.inl port) h).toSameStore
    · exact (exec_storeKept (.inr (.inl tick)) h).toSameStore
    · exact (exec_storeKept (.inr (.inr (.inl expiry))) h).toSameStore
    · exact (exec_storeKept (.inr (.inr (.inr (.inl assert)))) h).toSameStore
    · exact (exec_storeKept (.inr (.inr (.inr (.inr hold)))) h).toSameStore
    · exact (exec_resetRelease h).1
  exact ⟨same.records, same.windows, same.pages, same.pointer, same.badCount, same.nextSequence, same.census,
    same.array, same.recovered, same.op⟩

end Sys2Proof.Machine
end

section
/-!
SUPPORT. O39: what a search through the pages finds (R24, R71).
-/

namespace Sys2Proof.Machine

/-! ## The first of a sorted list -/

/-- The first member with a property in a list that `r` sorts: no member with the property stands before it. -/
theorem find?_eq_some_iff_of_sorted {α : Type} {r : α → α → Prop} {l : List α} (sorted : l.Pairwise r)
    (asymm : ∀ x y, r x y → ¬r y x) {p : α → Bool} {a : α} :
    l.find? p = some a ↔ p a = true ∧ a ∈ l ∧ ∀ b ∈ l, p b = true → ¬r b a := by
  have irrefl (x : α) : ¬r x x := fun h => asymm x x h h
  induction l with
  | nil => simp
  | cons x rest ih =>
    obtain ⟨before, sorted⟩ := List.pairwise_cons.mp sorted
    cases hx : p x with
    | true =>
      rw [List.find?_cons_of_pos hx, Option.some.injEq]
      constructor
      · rintro rfl
        refine ⟨hx, List.mem_cons_self, fun b hb _ => ?_⟩
        rcases List.mem_cons.mp hb with rfl | hb
        · exact irrefl b
        · exact asymm _ _ (before b hb)
      · rintro ⟨-, mem, first⟩
        rcases List.mem_cons.mp mem with rfl | mem
        · rfl
        · exact absurd (before a mem) (first x List.mem_cons_self hx)
    | false =>
      have ih := ih sorted
      rw [List.find?_cons_of_neg (by simp [hx])]
      refine ih.trans ?_
      have other {b : α} (hb : p b = true) : b ≠ x := fun e => by simp [e, hx] at hb
      constructor
      · rintro ⟨ha, mem, first⟩
        exact ⟨ha, List.mem_cons_of_mem _ mem, fun b hb hp => first b (List.mem_of_ne_of_mem (other hp) hb) hp⟩
      · rintro ⟨ha, mem, first⟩
        exact ⟨ha, List.mem_of_ne_of_mem (other ha) mem, fun b hb => first b (List.mem_cons_of_mem _ hb)⟩

theorem allPages_sorted : allPages.Pairwise (· < ·) := List.pairwise_lt_finRange 320

theorem mem_allPages (g : PageNo) : g ∈ allPages := List.mem_finRange g

/-- The first page in page order with a property: no page of lower number has it. -/
theorem find?_allPages_eq_some {p : PageNo → Bool} {g : PageNo} :
    allPages.find? p = some g ↔ p g = true ∧ ∀ h < g, p h = false := by
  rw [find?_eq_some_iff_of_sorted allPages_sorted fun _ _ => lt_asymm]
  constructor
  · rintro ⟨hg, -, first⟩
    exact ⟨hg, fun h lt => Bool.eq_false_iff.mpr fun hp => first h (mem_allPages h) hp lt⟩
  · rintro ⟨hg, first⟩
    exact ⟨hg, mem_allPages g, fun h _ hp lt => by simp [first h lt] at hp⟩

/-! ## The search from the pointer (R24) -/

/-- The search meets pages in the order of their distance upward from the pointer, page 0 after page 319. -/
theorem searchOrder_sorted (pointer : PageNo) :
    (searchOrder pointer).Pairwise fun x y => (x - pointer).val < (y - pointer).val := by
  have up {x : PageNo} (h : pointer ≤ x) : (x - pointer).val = x.val - pointer.val := Fin.coe_sub_iff_le.mpr h
  have around {x : PageNo} (h : x < pointer) : (x - pointer).val = 320 + x.val - pointer.val :=
    Fin.coe_sub_iff_lt.mpr h
  refine List.pairwise_append.mpr ⟨?_, ?_, fun x hx y hy => ?_⟩
  · refine (allPages_sorted.filter _).imp_of_mem fun {x y} hx hy (lt : x.val < y.val) => ?_
    have hx : pointer ≤ x := by simpa using (List.mem_filter.mp hx).2
    have hy : pointer ≤ y := by simpa using (List.mem_filter.mp hy).2
    rw [up hx, up hy]
    exact Nat.sub_lt_sub_right hx lt
  · refine (allPages_sorted.filter _).imp_of_mem fun {x y} hx hy (lt : x.val < y.val) => ?_
    rw [around (by simpa using (List.mem_filter.mp hx).2), around (by simpa using (List.mem_filter.mp hy).2)]
    omega
  · have hx : pointer ≤ x := by simpa using (List.mem_filter.mp hx).2
    have hy : y < pointer := by simpa using (List.mem_filter.mp hy).2
    rw [up hx, around hy]
    omega

/-- Settles O39: both searches go through sorted lists. -/
theorem allocationSearches : Obligations.AllocationSearches := by
  refine ⟨fun s g => ?_, fun s => s.findClean_none_iff, fun s g => find?_allPages_eq_some⟩
  unfold State.findClean
  rw [find?_eq_some_iff_of_sorted (searchOrder_sorted s.pointer) fun _ _ => lt_asymm]
  constructor
  · rintro ⟨clean, -, first⟩
    exact ⟨clean, fun h hc => not_lt.mp (first h (mem_searchOrder s.pointer h) hc)⟩
  · rintro ⟨clean, first⟩
    exact ⟨clean, mem_searchOrder s.pointer g, fun h _ hc => not_lt.mpr (first h hc)⟩

end Sys2Proof.Machine
end

section
/-!
SUPPORT. The commands of the engine with the operation that they are about in progress, and what each job makes of the
verdict (R26 to R28, R57, R73, R76, R166).
-/

namespace Sys2Proof.Machine

section
variable (s : State) (g : PageNo)

/-! ## Verdicts on a page -/

theorem State.programPassed_eq_verified (i : PageImage) : s.programPassed g i = s.verified g i := rfl

theorem State.programFailed_eq_failedProgram (mark : MarkOutcome) :
    s.programFailed g mark = s.failedProgram g mark := by
  cases mark <;> rfl

theorem State.settleErase_eraseDone (v : EraseVerdict) : (s.eraseDone g v).settleErase g v = s.erased g v := by
  cases v with
  | erased => rfl
  | failed mark => cases mark <;> rfl

theorem State.erased_op (v : EraseVerdict) : (s.erased g v).op = none := by cases v <;> rfl

theorem State.erased_array (v : EraseVerdict) : (s.erased g v).array = (s.eraseDone g v).array := by
  rw [← State.settleErase_eraseDone]
  cases v <;> rfl

end

section
variable {s : State} {g : PageNo} {i : PageImage}

theorem exec_pass (ho : s.op = some (.program g i)) :
    exec (.pageProgramVerdict .pass) s = .next ((s.verified g i).afterPass g) := by
  simp only [exec, execPageProgramVerdict, ho, State.programPassed_eq_verified]

theorem exec_fail (ho : s.op = some (.program g i)) (mark : MarkOutcome) :
    exec (.pageProgramVerdict (.fail mark)) s = .next (s.failedProgram g mark).afterFail := by
  simp only [exec, execPageProgramVerdict, ho, State.programFailed_eq_failedProgram]

/-- Without a program in progress there is no verdict on one (log entry 10). -/
theorem exec_programVerdict_of_none (ho : ∀ g i, s.op ≠ some (.program g i)) (v : ProgramVerdict) :
    exec (.pageProgramVerdict v) s = .next s := by
  simp only [exec, execPageProgramVerdict]
  split
  · next g i h => exact absurd h (ho g i)
  · rfl
  · rfl

theorem exec_eraseVerdict (ho : s.op = some (.erase g)) (v : EraseVerdict) :
    exec (.pageEraseVerdict v) s = .next ((s.eraseDone g v).afterErase g v) := by
  simp only [exec, execPageEraseVerdict, ho]
  rfl

/-- Without an erase in progress there is no verdict on one (log entry 10). -/
theorem exec_eraseVerdict_of_none (ho : ∀ g, s.op ≠ some (.erase g)) (v : EraseVerdict) :
    exec (.pageEraseVerdict v) s = .next s := by
  simp only [exec, execPageEraseVerdict]
  split
  · next g h => exact absurd h (ho g)
  · rfl
  · rfl

/-! ## What a job makes of it -/

theorem State.afterPass_of_epoch {q : Sequence} {failures : Nat} {noted : List NotedErase}
    (hj : s.job = .format (.epoch q failures) noted) : s.afterPass g = s.sweep 0 (some g) noted := by
  simp only [State.afterPass, hj]

theorem State.afterFail_of_epoch {q : Sequence} {failures : Nat} {noted : List NotedErase}
    (hj : s.job = .format (.epoch q failures) noted) : s.afterFail = s.epochAttempt q (failures + 1) noted := by
  simp only [State.afterFail, hj]

variable {v : EraseVerdict}

/-- The end of an ERASE job (R32, R73). -/
theorem State.afterErase_of_erase {k : PageNo} (hj : s.job = .erase k) :
    (s.eraseDone g v).afterErase g v = ({ s.erased g v with job := .idle } : State).settled := by
  have job : (s.eraseDone g v).job = .erase k := hj
  have free : ({ s.erased g v with job := .idle } : State) = { s.erased g v with job := .idle, op := none } := by
    rw [← s.erased_op g v]
  simp only [State.afterErase, job]
  rw [State.settleErase_eraseDone, State.endJob_eq_settled, free]

theorem State.afterErase_of_epoch {q : Sequence} {failures : Nat} {noted : List NotedErase}
    (hj : s.job = .format (.epoch q failures) noted) :
    (s.eraseDone g v).afterErase g v = (s.erased g v).epochAttempt q failures noted := by
  have job : (s.eraseDone g v).job = .format (.epoch q failures) noted := hj
  simp only [State.afterErase, job]
  rw [State.settleErase_eraseDone]

theorem State.afterErase_of_eraseEpoch {k : PageNo} {noted : List NotedErase}
    (hj : s.job = .format (.eraseEpoch k) noted) :
    (s.eraseDone g v).afterErase g v = (s.erased g v).formatEnd noted := by
  have job : (s.eraseDone g v).job = .format (.eraseEpoch k) noted := hj
  simp only [State.afterErase, job]
  rw [State.settleErase_eraseDone]

theorem eraseSucceeded_eq (v : EraseVerdict) : eraseSucceeded v = (v == .erased) := by cases v <;> rfl

/-- In the second step the outcome of a LIVE or RETAINED page is noted, any other page settles at once (R29, R167). -/
theorem State.afterErase_of_sweep {next : Nat} {epochPage : Option PageNo} {noted : List NotedErase}
    (hj : s.job = .format (.sweep next epochPage) noted) :
    (s.eraseDone g v).afterErase g v
      = if (s.page g).isKept then
          ({ s with array := (s.erased g v).array, op := none } : State).sweep (g.val + 1) epochPage
            (noted ++ [⟨g, v == .erased⟩])
        else (s.erased g v).sweep (g.val + 1) epochPage noted := by
  have job : (s.eraseDone g v).job = .format (.sweep next epochPage) noted := hj
  have page : (s.eraseDone g v).page g = s.page g := rfl
  simp only [State.afterErase, job, State.sweepVerdict, page]
  rw [State.settleErase_eraseDone, eraseSucceeded_eq, State.erased_array]
  rfl

end

/-- Settles O49: the verdict settles the page or notes it, and each job goes on as its case of `afterErase` reads. -/
theorem eraseVerdictSettles : Obligations.EraseVerdictSettles := by
  refine fun v s => ⟨fun ho => exec_eraseVerdict_of_none ho v, fun g ho => ?_⟩
  rw [exec_eraseVerdict ho]
  refine ⟨fun k hj => ?_, fun q failures noted hj => ?_, fun next epochPage noted hj => ?_, fun k noted hj => ?_⟩
  · rw [State.afterErase_of_erase hj]
  · rw [State.afterErase_of_epoch hj]
  · rw [State.afterErase_of_sweep hj]
    simp only [← PageEntry.isKept_iff]
    split <;> rfl
  · rw [State.afterErase_of_eraseEpoch hj]

end Sys2Proof.Machine
end

section
/-!
SUPPORT. O50 and O51: the beginning of a format, its steps and its end (R165 to R168).
-/

namespace Sys2Proof.Machine

/-! ## The steps of a format -/

theorem State.mayFormat_iff (s : State) :
    s.mayFormat = true ↔ s.inReset = false ∧ s.store = .formatting ∧ s.job = .idle ∧ s.pfw = false := by
  simp only [State.mayFormat, Bool.and_eq_true, Bool.not_eq_true', beq_iff_eq, and_assoc]

theorem exec_formatJobBegin_of_free {s : State} (hf : s.mayFormat = true) (together : Bool) :
    exec (.formatJobBegin together) s = .next ({ s with pfw := together } : State).beginFormat := by
  obtain ⟨-, -, -, pfw⟩ := s.mayFormat_iff.mp hf
  simp only [exec, execFormatJobBegin, hf, if_true, pfw, Bool.false_or]

theorem exec_formatJobBegin_of_busy {s : State} (hf : ¬s.mayFormat = true) (together : Bool) :
    exec (.formatJobBegin together) s = .next { s with pfw := s.pfw || together } := by
  simp only [exec, execFormatJobBegin, hf, Bool.false_eq_true, if_false]

/-- The first step of a format, case by case (R97, R166). -/
theorem State.epochAttempt_eq (s : State) (q : Sequence) (failures : Nat) (noted : List NotedErase) :
    s.epochAttempt q failures noted
      = if 3 ≤ failures then s.sweep 0 none noted
        else if s.pfw then { s.inFormat (.epoch q failures) noted with op := none }
        else match s.findClean, s.lowestStale with
          | some g, _ =>
            { s.inFormat (.epoch q failures) noted with
              pages := s.pages.set g (.pending none), pointer := g + 1, op := some (.program g (epochImage q)) }
          | none, some g => { s.inFormat (.epoch q failures) noted with op := some (.erase g) }
          | none, none => (s.inFormat (.epoch q failures) noted).sweep 0 none noted := by
  have clean : ({ s with job := .format (.epoch q failures) noted } : State).findClean = s.findClean := rfl
  have stale : ({ s with job := .format (.epoch q failures) noted } : State).lowestStale = s.lowestStale := rfl
  simp only [State.epochAttempt, clean, stale]
  refine if_congr Iff.rfl rfl (if_congr Iff.rfl rfl ?_)
  cases s.findClean with
  | some g => rfl
  | none => cases s.lowestStale <;> rfl

/-- The second step of a format (R97, R167, R168). -/
theorem State.sweep_eq (s : State) (next : Nat) (epochPage : Option PageNo) (noted : List NotedErase) :
    s.sweep next epochPage noted
      = match s.sweepTarget next epochPage, epochPage with
        | some g, _ =>
          { s with job := .format (.sweep next epochPage) noted, op := if s.pfw then none else some (.erase g) }
        | none, some g => { s with job := .format (.eraseEpoch g) noted, op := if s.pfw then none else some (.erase g) }
        | none, none => s.formatEnd noted := by
  unfold State.sweep
  cases s.sweepTarget next epochPage with
  | some g => exact State.issueErase_changes _ g
  | none =>
    cases epochPage with
    | some g => exact State.issueErase_changes _ g
    | none => rfl

/-- Settles O50: each step of a format by its own equation. -/
theorem formatSteps : Obligations.FormatSteps := by
  refine fun s => ⟨fun together => ⟨fun busy => ?_, fun inReset store job pfw => ?_⟩,
    fun g i q failures noted ho hj => ?_, fun q failures noted => ?_, fun next epochPage noted => ?_⟩
  · exact exec_formatJobBegin_of_busy (mt s.mayFormat_iff.mp busy) together
  · rw [exec_formatJobBegin_of_free (s.mayFormat_iff.mpr ⟨inReset, store, job, pfw⟩)]
    rfl
  · exact ⟨by rw [exec_pass ho, State.afterPass_of_epoch (s := s.verified g i) hj], fun mark => by
      rw [exec_fail ho, State.afterFail_of_epoch (s := s.failedProgram g mark) hj]⟩
  · rw [State.epochAttempt_eq]
    rfl
  · rw [State.sweep_eq, List.head?_filter]
    rfl

/-! ## The end of a format (R29, R168) -/

/-- The noted pages settled, one by one (R29). -/
theorem State.settleNoted_eq (s : State) {noted : List NotedErase} (nodup : (noted.map NotedErase.page).Nodup) :
    (s.settleNoted noted).badCount = s.badCount + (noted.filter fun n => !n.erased).length
      ∧ ∀ g, (s.settleNoted noted).page g = match noted.find? fun n => n.page = g with
        | some n => if n.erased then .clean else .bad
        | none => s.page g := by
  induction noted generalizing s with
  | nil => exact ⟨rfl, fun _ => rfl⟩
  | cons n rest ih =>
    obtain ⟨notIn, nodup⟩ := List.nodup_cons.mp nodup
    have step : s.settleNoted (n :: rest)
        = (if n.erased then s.setPage n.page .clean else s.retire n.page).settleNoted rest := rfl
    obtain ⟨bad, page⟩ := ih (if n.erased then s.setPage n.page .clean else s.retire n.page) nodup
    have first (x : PageNo) : (if n.erased then s.setPage n.page .clean else s.retire n.page).page x
        = if x = n.page then (if n.erased then .clean else .bad) else s.page x := by
      cases n.erased <;> exact s.page_setPage n.page x _
    rw [step]
    refine ⟨?_, fun g => ?_⟩
    · rw [bad, List.filter_cons]
      cases n.erased with
      | true => rfl
      | false =>
        simp only [Bool.false_eq_true, if_false, State.retire_badCount, Bool.not_false, if_true, List.length_cons]
        omega
    · rw [page, first, List.find?_cons]
      by_cases hg : n.page = g
      · subst hg
        have later : rest.find? (fun m => decide (m.page = n.page)) = none :=
          List.find?_eq_none.mpr fun m hm e => notIn (List.mem_map.mpr ⟨m, hm, by simpa using e⟩)
        simp [later]
      · simp [hg, Ne.symm hg]

/-- The ports after the end of a format: the list discarded, area scans ended, STORE_STATE sent (R17, R133, R168). -/
def PortState.formatEnded (c : PortState) (store : StoreState) : PortState :=
  { c.endAreaScan with
    txn := .none, staging := .records [], notices := appendNotice (.storeState store) c.endAreaScan.notices }

/-- The end of a format, field by field (R29, R168). -/
theorem State.formatEnd_eq (s : State) {noted : List NotedErase} (nodup : (noted.map NotedErase.page).Nodup) :
    let bad := s.badCount + (noted.filter fun n => !n.erased).length
    let store : StoreState := if 32 < bad then .readOnly .media else .ready
    s.formatEnd noted
      = { s with
          ports := s.ports.map fun c => c.formatEnded store
          records := .fill 129 .unwritten, windows := .fill 16 none, pages := (s.settleNoted noted).pages, pointer := 0
          badCount := bad, nextSequence := 1, census := [], store := store, recovered := false, job := .idle
          op := none } := by
  obtain ⟨bad, -⟩ := s.settleNoted_eq nodup
  obtain ⟨pages, count, settled⟩ := s.settleNoted_changes noted
  have two (f g : PortState → PortState) : (s.ports.map f).map g = s.ports.map fun c => g (f c) :=
    Table.ext_get fun p => by simp only [Table.get_map]
  rw [← bad]
  unfold State.formatEnd
  simp only [settled, State.onPorts, State.notifyAll, two]
  rfl

/-- Settles O51: the fields by `formatEnd_eq`, the pages by the noted erases. -/
theorem formatEnds : Obligations.FormatEnds := by
  intro s noted nodup bad store
  refine ⟨_, _, s.formatEnd_eq nodup, (s.settleNoted_eq nodup).2, fun p => ?_⟩
  rw [Table.get_map, PortState.formatEnded, PortState.endAreaScan_eq]
  rfl

end Sys2Proof.Machine
end

section
/-!
SUPPORT. O44 and O45: a run goes on to its next program or gives up, and the store that enters READ_ONLY (R51, R56 to
R58, R76, R78, R160).
-/

namespace Sys2Proof.Machine

/-! ## The next program of a run -/

/-- A run's next program is an issue, where giving up does not rest on the operation that was in progress. -/
theorem State.programNext_eq_issues {s : State} {run : ImageRun} {image : PageImage} {fail : State → State}
    (next : run.images[run.verified.length]? = some image) (noOp : fail { s with op := none } = fail s) :
    s.programNext run fail = s.issues image (fail s) := by
  unfold State.programNext State.issues
  refine if_congr Iff.rfl rfl ?_
  rw [ImageRun.nextImage, next]
  cases s.findClean with
  | some g => rfl
  | none => exact noOp

/-- The next program of a commit (R56, R58). -/
theorem State.commitNext_eq (s : State) {run : ImageRun} {image : PageImage} (p : Port) (token : Token)
    (next : run.images[run.verified.length]? = some image) :
    (s.programNext run fun u => u.commitMediaFailure p token) = s.issues image (s.commitMediaFailure p token) :=
  State.programNext_eq_issues next rfl

/-- The next program of a relocation (R76, R78). -/
theorem State.relocationNext_eq (s : State) {run : ImageRun} {image : PageImage}
    (next : run.images[run.verified.length]? = some image) :
    s.programNext run State.relocationMediaFailure = s.issues image s.relocationMediaFailure :=
  State.programNext_eq_issues next rfl

/-! ## The verdict short of the last position -/

/-- A run with an image behind the position verified is not complete. -/
theorem ImageRun.complete_verify_eq_false {run : ImageRun} {image : PageImage} (g : PageNo)
    (next : run.images[run.verified.length + 1]? = some image) : (run.verify g).complete = false := by
  obtain ⟨more, -⟩ := List.getElem?_eq_some_iff.mp next
  simp [ImageRun.complete, ImageRun.verify, more]

theorem ImageRun.next_verify {run : ImageRun} {image : PageImage} (g : PageNo)
    (next : run.images[run.verified.length + 1]? = some image) :
    (run.verify g).images[(run.verify g).verified.length]? = some image := by
  simpa [ImageRun.verify] using next

section
variable {s : State} {g : PageNo} {run : ImageRun} {image : PageImage}

/-- A commit goes on to its next position (R56). -/
theorem State.afterPass_of_commit {p : Port} {token : Token} {st : Staging} (hj : s.job = .commit p token st run)
    (next : run.images[run.verified.length + 1]? = some image) :
    let u : State := { s with job := .commit p token st (run.verify g) }
    s.afterPass g = u.issues image (u.commitMediaFailure p token) := by
  simp only [State.afterPass, hj, State.commitPassed, ImageRun.complete_verify_eq_false g next, Bool.false_eq_true,
    if_false]
  exact State.commitNext_eq _ p token (ImageRun.next_verify g next)

/-- A relocation goes on to its next position (R76). -/
theorem State.afterPass_of_relocation {target : Sequence} (hj : s.job = .relocate target run)
    (next : run.images[run.verified.length + 1]? = some image) :
    let u : State := { s with job := .relocate target (run.verify g) }
    s.afterPass g = u.issues image u.relocationMediaFailure := by
  simp only [State.afterPass, hj, State.relocationPassed, ImageRun.complete_verify_eq_false g next, Bool.false_eq_true,
    if_false]
  exact State.relocationNext_eq _ (ImageRun.next_verify g next)

/-- A commit retries a position twice (R57). -/
theorem State.afterFail_of_commit {p : Port} {token : Token} {st : Staging} (hj : s.job = .commit p token st run) :
    (∀ image, run.retries < 2 → run.images[run.verified.length]? = some image →
        let u : State := { s with job := .commit p token st { run with retries := run.retries + 1 } }
        s.afterFail = u.issues image (u.commitMediaFailure p token))
      ∧ (2 ≤ run.retries → s.afterFail = s.commitMediaFailure p token) := by
  simp only [State.afterFail, hj, State.commitFailed]
  refine ⟨fun image retry next => ?_, fun spent => ?_⟩
  · rw [if_pos (show run.retries < Config.retryLimit from retry)]
    exact State.commitNext_eq _ p token next
  · rw [if_neg (show ¬run.retries < Config.retryLimit from Nat.not_lt.mpr spent)]

/-- A relocation retries a position twice (R76). -/
theorem State.afterFail_of_relocation {target : Sequence} (hj : s.job = .relocate target run) :
    (∀ image, run.retries < 2 → run.images[run.verified.length]? = some image →
        let u : State := { s with job := .relocate target { run with retries := run.retries + 1 } }
        s.afterFail = u.issues image u.relocationMediaFailure)
      ∧ (2 ≤ run.retries → s.afterFail = s.relocationMediaFailure) := by
  simp only [State.afterFail, hj, State.relocationFailed]
  refine ⟨fun image retry next => ?_, fun spent => ?_⟩
  · rw [if_pos (show run.retries < Config.retryLimit from retry)]
    exact State.relocationNext_eq _ next
  · rw [if_neg (show ¬run.retries < Config.retryLimit from Nat.not_lt.mpr spent)]

end

/-- Settles O44: for either job, the verdict settles the page and the run goes on as its case of `afterPass` or
`afterFail` reads. -/
theorem programVerdictGoesOn : Obligations.ProgramVerdictGoesOn := by
  refine fun s => ⟨fun ho v => exec_programVerdict_of_none ho v,
    fun g i run ho => ⟨fun p token st hj => ?_, fun target hj => ?_⟩⟩
  · have passed : (s.verified g i).job = .commit p token st run := hj
    refine ⟨fun image next => ?_, fun mark => ?_⟩
    · rw [exec_pass ho, State.afterPass_of_commit passed next]
      rfl
    · have failed : (s.failedProgram g mark).job = .commit p token st run := hj
      obtain ⟨retry, giveUp⟩ := State.afterFail_of_commit failed
      rw [exec_fail ho]
      exact ⟨fun image few next => congrArg _ (retry image few next), fun spent => congrArg _ (giveUp spent)⟩
  · have passed : (s.verified g i).job = .relocate target run := hj
    refine ⟨fun image next => ?_, fun mark => ?_⟩
    · rw [exec_pass ho, State.afterPass_of_relocation passed next]
      rfl
    · have failed : (s.failedProgram g mark).job = .relocate target run := hj
      obtain ⟨retry, giveUp⟩ := State.afterFail_of_relocation failed
      rw [exec_fail ho]
      exact ⟨fun image few next => congrArg _ (retry image few next), fun spent => congrArg _ (giveUp spent)⟩

/-! ## A job that gives up (R30, R58, R78) -/

theorem State.dropPending_pages (s : State) :
    s.dropPending.pages = Table.build 320 fun g => if (s.page g).isPending then .stale else s.page g :=
  Table.ext_get fun g => by
    rw [Table.get_build]
    exact s.page_dropPending g

theorem State.relocationMediaFailure_eq (s : State) :
    s.relocationMediaFailure = State.settled { s with pages := s.dropPending.pages, job := .idle, op := none } := rfl

theorem State.commitMediaFailure_eq (s : State) (p : Port) (token : Token) :
    s.commitMediaFailure p token = State.settled { s with
      pages := s.dropPending.pages, job := .idle, op := none, leases := s.leasesThawed p
      ports := s.ports.set p { s.port p with
        txn := .none, staging := .records [], lastOutcome := ⟨some token, .failed .media, none⟩
        notices := appendNotice (.commitFailed token .media none) (s.port p).notices } } := by
  unfold State.commitMediaFailure
  rw [State.endJob_eq_settled, State.endFreeze_eq]
  simp only [State.notify, State.onPort, Table.set_set, Table.get_set_self]
  rfl

/-! ## Every queued commit fails (R51) -/

/-- The port of a queued commit that fails with its notice (R51, R53). -/
def PortState.queueFailed (c : PortState) (reason : FailReason) (token : Token) : PortState :=
  { c with
    txn := .none, staging := .records [], lastOutcome := ⟨some token, .failed reason, none⟩
    notices := appendNotice (.commitFailed token reason none) c.notices }

/-- The failure of the first of some queued commits, and then of the others. -/
def State.failEach (s : State) (reason : FailReason) (l : List QueueEntry) : State :=
  l.foldl (fun s e => s.failQueued e reason none true) s

/-- Each port has at most one commit among them, which fails in its own notice (R50, R51). -/
theorem State.port_failEach (s : State) (reason : FailReason) {l : List QueueEntry}
    (nodup : (l.map QueueEntry.port).Nodup) (p : Port) :
    (s.failEach reason l).port p = match l.find? fun e => e.port = p with
      | none => s.port p
      | some e => (s.port p).queueFailed reason e.token := by
  induction l generalizing s with
  | nil => rfl
  | cons e rest ih =>
    obtain ⟨notIn, nodup⟩ := List.nodup_cons.mp nodup
    have step : s.failEach reason (e :: rest) = (s.failQueued e reason none true).failEach reason rest := rfl
    rw [step, ih _ nodup]
    by_cases hp : e.port = p
    · subst hp
      have later : rest.find? (fun x => decide (x.port = e.port)) = none :=
        List.find?_eq_none.mpr fun x hx he => notIn (List.mem_map.mpr ⟨x, hx, by simpa using he⟩)
      rw [later, List.find?_cons_of_pos (by simp), s.port_failQueued_self]
      rfl
    · rw [List.find?_cons_of_neg (by simpa using hp), s.port_failQueued_ne _ _ _ _ _ (Ne.symm hp)]

theorem State.windows_failQueued (s : State) (e : QueueEntry) (r : FailReason) (record : Option HostRecord)
    (tell : Bool) : (s.failQueued e r record tell).windows = s.windows := by
  obtain ⟨_, _, h⟩ := s.failQueued_changes e r record tell
  rw [h]

theorem State.lease_failQueued (s : State) (e : QueueEntry) (r : FailReason) (record : Option HostRecord)
    (tell : Bool) (w : WindowNo) :
    (s.failQueued e r record tell).lease w = (s.leasesThawed e.port).get w := by
  have thawed (t : State) (hl : t.leases = s.leases) (hw : t.windows = s.windows) :
      (t.endFreeze e.port).lease w = (s.leasesThawed e.port).get w := by
    rw [State.endFreeze_eq, State.leasesThawed_congr hl hw, State.lease]
  unfold State.failQueued
  cases tell <;> exact thawed _ rfl rfl

/-- The freeze of each of these commits ends, window by window (R113). -/
theorem State.lease_failEach (s : State) (reason : FailReason) (l : List QueueEntry) (w : WindowNo) :
    (s.failEach reason l).lease w = match (s.lease w).held with
      | none => s.lease w
      | some h =>
        if h.frozen = true ∧ ∃ e ∈ l, e.port = h.port then ⟨some ⟨h.port, s.leaseTime w, false⟩, (s.lease w).waiters⟩
        else s.lease w := by
  induction l generalizing s with
  | nil => cases (s.lease w).held <;> simp [State.failEach]
  | cons e rest ih =>
    have step : s.failEach reason (e :: rest) = (s.failQueued e reason none true).failEach reason rest := rfl
    have time : (s.failQueued e reason none true).leaseTime w = s.leaseTime w := by
      rw [State.leaseTime, s.windows_failQueued, State.leaseTime]
    rw [step, ih, time, s.lease_failQueued, State.leasesThawed, Table.get_build]
    cases held : (s.lease w).held with
    | none => simp [held]
    | some h =>
      by_cases thaws : h.port = e.port ∧ h.frozen = true
      · obtain ⟨hp, hf⟩ := thaws
        simp [hp, hf]
      · simp only [thaws, if_false, held]
        refine if_congr (and_congr_right fun hf => ?_) rfl rfl
        have other : e.port ≠ h.port := fun hp => thaws ⟨hp.symm, hf⟩
        simp [other]

/-- The store that enters READ_ONLY: every port is told, then every queued commit fails (R51, R160). -/
theorem State.enterReadOnly_eq_failEach (s : State) (reason : ReadOnlyReason) :
    s.enterReadOnly reason
      = (({ s with store := .readOnly reason } : State).notifyAll (.storeState (.readOnly reason))).failEach .readOnly
        s.queue := rfl

/-- Settles O45: the jobs by what they drop, READ_ONLY by the failure of each queued commit in turn. -/
theorem jobsGiveUp : Obligations.JobsGiveUp := by
  refine fun s => ⟨?_, fun p token => ?_, fun nodup reason => ?_⟩
  · rw [State.relocationMediaFailure_eq, State.dropPending_pages]
  · rw [State.commitMediaFailure_eq, State.dropPending_pages]
  · obtain ⟨ports, leases, entered⟩ := s.enterReadOnly_changes reason
    have failed := s.enterReadOnly_eq_failEach reason
    refine ⟨ports, leases, entered, fun p => ?_, fun w => ?_⟩
    · have port : ports.get p = (s.enterReadOnly reason).port p := by rw [entered]; rfl
      rw [port, failed, State.port_failEach _ _ nodup, State.port_notifyAll]
      rfl
    · have lease : leases.get w = (s.enterReadOnly reason).lease w := by rw [entered]; rfl
      rw [lease, failed, State.lease_failEach]
      rfl

end Sys2Proof.Machine
end

section
/-!
SUPPORT. O41 and O43: the job choice, with an empty queue and with a head to take up (R53 to R55, R69 to R75).
-/

namespace Sys2Proof.Machine

/-! ## When a choice is made (R69) -/

theorem State.mayChoose_iff (s : State) : s.mayChoose = true ↔ s.FreeToChoose := by
  simp only [State.mayChoose, State.FreeToChoose, Bool.and_eq_true, Bool.not_eq_true', beq_iff_eq, and_assoc]

theorem exec_jobChoice_of_free {s : State} {l : List QueueEntry} (free : s.FreeToChoose) (queue : s.queue = l)
    (together : Bool) : exec (.jobChoice together) s = .next (({ s with pfw := together } : State).takeUp l) := by
  subst queue
  have may := s.mayChoose_iff.mpr free
  obtain ⟨-, -, -, pfw⟩ := free
  simp only [exec, execJobChoice, may, if_true, pfw, Bool.false_or]

theorem exec_jobChoice_of_busy {s : State} (busy : ¬s.FreeToChoose) (together : Bool) :
    exec (.jobChoice together) s = .next { s with pfw := s.pfw || together } := by
  simp only [exec, execJobChoice, mt s.mayChoose_iff.mp busy, Bool.false_eq_true, if_false]

section
variable {s : State}

/-! ## The relocation target (R74) -/

theorem State.relocationTarget_eq_none (h : ∀ e ∈ s.census, ¬s.Relocatable e) : s.relocationTarget = none :=
  List.find?_eq_none.mpr fun e he => by simpa [State.Relocatable] using h e he

theorem State.relocationTarget_eq_some {before after : List CensusEntry} {e : CensusEntry}
    (split : s.census = before ++ e :: after) (noneBefore : ∀ x ∈ before, ¬s.Relocatable x) (may : s.Relocatable e) :
    s.relocationTarget = some e :=
  List.find?_eq_some_iff_append.mpr
    ⟨by simpa [State.Relocatable] using may, before, after, split, fun x hx => by
      simpa [State.Relocatable, -not_and, not_and_or] using noneBefore x hx⟩

/-- A relocation of an entry that has LIVE pages begins with the copies of these (R75). -/
theorem State.startRelocation_begins {e : CensusEntry}
    (live : ∀ x ∈ e.pages, x.live = true → (s.page x.page).isLive = true) :
    s.RelocationBegins e (s.startRelocation e) := by
  have headers (g : PageNo) (hg : g ∈ e.livePageNos) : ∃ h, s.page g = .live h := by
    obtain ⟨x, hx, rfl⟩ := List.mem_map.mp hg
    obtain ⟨mem, hl⟩ := CensusEntry.mem_filter_live.mp hx
    have := live x mem hl
    cases hp : s.page x.page <;> simp [hp, PageEntry.isLive] at this
    exact ⟨_, rfl⟩
  rw [State.startRelocation_eq]
  unfold State.RelocationBegins
  split
  · next spent => rw [if_pos (show s.nextSequence = Config.sequenceEnd from spent)]
  · next left =>
    rw [if_neg (show s.nextSequence ≠ Config.sequenceEnd from left)]
    refine ⟨s.copyImages s.nextSequence e.livePageNos.length 1 e.livePageNos, State.copyImages_length _ _ _ headers,
      fun k g h r hk hg hr => ?_, fun image first => ?_⟩
    · have hk : e.livePageNos[k]? = some g := hk
      rw [s.copyImages_getElem? _ _ _ _ headers, hk, Option.bind_some, hg, Nat.add_comm 1 k]
      simp only [PageEntry.header, Option.map_some, State.copyImage, hr, Option.getD_some]
      rfl
    · exact State.relocationNext_eq (s.relocationBegun e) (List.head?_eq_getElem?.symm.trans first)

/-! ## What is chosen without a commit (R71, R72) -/

theorem State.chooseIdle_of_stale {g : PageNo} (stale : s.lowestStale = some g) :
    s.chooseIdle = { s with job := .erase g, op := if s.pfw then none else some (.erase g) } := by
  simp only [State.chooseIdle, stale, State.startErase_changes]

theorem State.chooseIdle_of_enough (stale : s.lowestStale = none)
    (enough : 24 ≤ s.cleanCount ∨ ∀ e ∈ s.census, ¬s.Relocatable e) :
    s.chooseIdle = { s with job := .idle, op := none } := by
  simp only [State.chooseIdle, stale]
  split
  · next few =>
    rcases enough with many | noTarget
    · exact absurd few (Nat.not_lt.mpr many)
    · rw [State.relocationTarget_eq_none noTarget]
  · rfl

theorem State.chooseIdle_of_target {e : CensusEntry} (stale : s.lowestStale = none) (few : s.cleanCount < 24)
    (target : s.relocationTarget = some e) : s.chooseIdle = s.startRelocation e := by
  simp only [State.chooseIdle, stale, if_pos (show s.cleanCount < Config.relocateBelow from few), target]

theorem State.chooseWaiting_of_stale {g : PageNo} (stale : s.lowestStale = some g) :
    s.chooseWaiting = { s with job := .erase g, op := if s.pfw then none else some (.erase g) } := by
  simp only [State.chooseWaiting, stale, State.startErase_changes]

theorem State.chooseWaiting_of_nothing (stale : s.lowestStale = none) (noTarget : ∀ e ∈ s.census, ¬s.Relocatable e) :
    s.chooseWaiting = s.enterReadOnly .space := by
  simp only [State.chooseWaiting, stale, State.relocationTarget_eq_none noTarget]

theorem State.chooseWaiting_of_target {e : CensusEntry} (stale : s.lowestStale = none)
    (target : s.relocationTarget = some e) : s.chooseWaiting = s.startRelocation e := by
  simp only [State.chooseWaiting, stale, target]

end

/-- Settles O41: the choice with an empty queue, by what there is to reclaim. -/
theorem engineChoosesJob : Obligations.EngineChoosesJob := by
  refine fun together s => ⟨fun busy => exec_jobChoice_of_busy busy together, ?_⟩
  intro free empty u
  have chosen : exec (.jobChoice together) s = .next u.chooseIdle := exec_jobChoice_of_free free empty together
  obtain ⟨-, -, idle, -⟩ := free
  rw [chosen]
  refine ⟨fun g stale => congrArg _ (State.chooseIdle_of_stale (s := u) stale), fun stale enough => ?_,
    fun before e after stale few split noneBefore may live _ => ⟨_, rfl, ?_⟩⟩
  · rw [State.chooseIdle_of_enough (s := u) stale enough, ← idle]
  · rw [State.chooseIdle_of_target (s := u) stale few (State.relocationTarget_eq_some split noneBefore may)]
    exact State.startRelocation_begins live

/-! ## The head of the queue (R53, R54, R70) -/

section
variable {s : State} {e : QueueEntry} {rest : List QueueEntry}

theorem State.takeUp_of_failure {reason : FailReason} {record : Option HostRecord}
    (fails : s.validate e = some (reason, record)) :
    s.takeUp (e :: rest) = (s.failQueued e reason record true).takeUp rest := by
  simp only [State.takeUp, fails]

theorem State.takeUp_of_space (valid : s.validate e = none) (fits : e.staging.count + 8 ≤ s.cleanCount) :
    s.takeUp (e :: rest) = s.startCommit e := by
  simp only [State.takeUp, valid]
  exact if_pos fits

theorem State.takeUp_of_no_space (valid : s.validate e = none) (full : s.cleanCount < e.staging.count + 8) :
    s.takeUp (e :: rest) = s.chooseWaiting := by
  simp only [State.takeUp, valid]
  exact if_neg (Nat.not_le.mpr full)

end

/-- Validation does not look at PFW. -/
theorem State.validate_withPfw (s : State) (b : Bool) (e : QueueEntry) :
    ({ s with pfw := b } : State).validate e = s.validate e := by
  have entries (l : List StagedEntry) :
      ({ s with pfw := b } : State).validateEntries e.port l = s.validateEntries e.port l := by
    induction l with
    | nil => rfl
    | cons x rest ih =>
      rw [State.validateEntries, State.validateEntries, ih]
      rfl
  obtain ⟨p, token, st⟩ := e
  cases st with
  | records es => exact entries es
  | define w d => rfl
  | clear w => rfl

/-- A head that has failed leaves the others in the queue, and the engine as free as it was (R53). -/
theorem State.failQueued_head {s : State} {e : QueueEntry} {rest : List QueueEntry} (queue : s.queue = e :: rest)
    (others : ∀ x ∈ rest, x.port ≠ e.port) (free : s.FreeToChoose) (reason : FailReason) (record : Option HostRecord) :
    (s.failQueued e reason record true).queue = rest ∧ (s.failQueued e reason record true).FreeToChoose := by
  obtain ⟨_, _, failed⟩ := s.failQueued_changes e reason record true
  rw [failed]
  refine ⟨?_, free⟩
  rw [queue, List.filter_cons_of_neg (by simp)]
  exact List.filter_eq_self.mpr fun x hx => by simpa using others x hx

/-! ## The start of a commit (R55) -/

/-- The images of a record commit, in staging order with their positions from 1 on (R55). -/
theorem State.recordImages_eq_zipIdx (s : State) (q : Sequence) (es : List StagedEntry) :
    s.recordImages q es.length 1 es = es.zipIdx.map fun x => s.recordImage q es.length (x.2 + 1) x.1 := by
  refine List.ext_getElem? fun k => ?_
  rw [State.recordImages_getElem?, List.getElem?_map, List.getElem?_zipIdx, Nat.add_comm 1 k, Option.map_map,
    Nat.zero_add]
  rfl

/-- A commit whose sequence and images are named starts with its first program (R55, R56). -/
theorem State.startCommit_issues {s : State} {e : QueueEntry} {rest : List QueueEntry} {images : List PageImage}
    {image : PageImage} (queue : s.queue = e :: rest) (others : ∀ x ∈ rest, x.port ≠ e.port)
    (left : s.nextSequence ≠ Config.sequenceEnd) (fixed : s.commitImages s.nextSequence e.staging = images)
    (first : images.head? = some image) :
    let starts : State := State.onPort
      { s with
        nextSequence := s.nextSequence + 1, queue := rest
        job := .commit e.port e.token e.staging ⟨s.nextSequence, images, [], 0⟩ }
      e.port fun c => { c with txn := .running }
    s.startCommit e = starts.issues image (starts.commitMediaFailure e.port e.token) := by
  have behind : (s.queue.filter fun x => x.port != e.port) = rest := by
    rw [queue, List.filter_cons_of_neg (by simp)]
    exact List.filter_eq_self.mpr fun x hx => by simpa using others x hx
  rw [State.startCommit_eq, if_neg left, State.commitBegun, State.commitJob, behind, fixed]
  exact State.commitNext_eq _ e.port e.token (List.head?_eq_getElem?.symm.trans first)

/-- Settles O43: the head by its validation and the CLEAN pages, its images by the order of its list. -/
theorem queueHeadIsTakenUp : Obligations.QueueHeadIsTakenUp := by
  intro together s e rest free queue others u q next layoutImage images starts
  have fixed : u.commitImages q e.staging = images := by
    obtain ⟨p, token, st⟩ := e
    cases st with
    | records es =>
      refine (u.recordImages_eq_zipIdx q es).trans (List.map_congr_left fun x _ => ?_)
      unfold State.recordImage
      cases x.1.op <;> rfl
    | define w d => rfl
    | clear w => rfl
  have chosen : exec (.jobChoice together) s = .next (u.takeUp (e :: rest)) :=
    exec_jobChoice_of_free free queue together
  have validate : u.validate e = s.validate e := s.validate_withPfw together e
  rw [chosen]
  refine ⟨fun reason record fails => ?_, fun valid => ⟨fun fits => ?_, fun full => ?_⟩⟩
  · obtain ⟨behind, stillFree⟩ := State.failQueued_head queue others free reason record
    rw [State.takeUp_of_failure (validate.trans fails), exec_jobChoice_of_free stillFree behind]
    rfl
  · rw [State.takeUp_of_space (validate.trans valid) fits]
    refine ⟨fun spent => ?_, fun image left first => ?_⟩
    · rw [State.startCommit_eq, if_pos (show u.nextSequence = Config.sequenceEnd from spent)]
    · exact congrArg _ (State.startCommit_issues queue others left fixed first)
  · rw [State.takeUp_of_no_space (validate.trans valid) full]
    refine ⟨fun g stale => congrArg _ (State.chooseWaiting_of_stale (s := u) stale), fun stale noTarget =>
      congrArg _ (State.chooseWaiting_of_nothing (s := u) stale noTarget),
      fun before x after stale split noneBefore may live _ => ⟨_, rfl, ?_⟩⟩
    rw [State.chooseWaiting_of_target (s := u) stale (State.relocationTarget_eq_some split noneBefore may)]
    exact State.startRelocation_begins live

end Sys2Proof.Machine
end

section
/-!
SUPPORT. O35: device reset, the part in it, and its release (R82 to R84, R163).
-/

namespace Sys2Proof.Machine

/-! ## Device reset (R82, R84) -/

theorem State.cutOff_changes (s : State) (cut : CutOff) : s.cutOff cut = { s with array := (s.cutOff cut).array } := by
  unfold State.cutOff
  split <;> rfl

/-- The array as a cut-off leaves it: the page of a program or an erase in progress by the cut-off, and no other
changed (R84). -/
theorem State.cutOff_array_get (s : State) (cut : CutOff) (g : PageNo) :
    (s.cutOff cut).array.get g = match s.op with
      | none => s.array.get g
      | some (.program h i) => if g = h then cutProgram cut i else s.array.get g
      | some (.erase h) => if g = h then cutErase cut (s.array.get h) else s.array.get g := by
  unfold State.cutOff
  cases s.op with
  | none => rfl
  | some op => cases op <;> exact Table.get_set _ _ _ _

/-- The state after a device reset, field by field (R82, Table 19). -/
theorem exec_deviceReset_eq (cut : CutOff) (s : State) :
    exec (.deviceReset cut) s = .next
      { ports := s.ports.map fun c => .reset c.service, records := .fill 129 .unwritten, windows := .fill 16 none
        leases := .fill 16 .free, queue := [], pages := .fill 320 .stale, pointer := 0, badCount := 0
        nextSequence := 1, census := [], array := (s.cutOff cut).array, store := .mounting, recovered := false
        hold := false, job := .idle, op := none, inReset := true, pfw := s.pfw, straps := s.straps
        pending := s.pending } := by
  have lost : exec (.deviceReset cut) s = .next { (s.cutOff cut).loseVolatile with inReset := true } := rfl
  rw [lost, s.cutOff_changes cut]
  rfl

/-! ## The part in device reset (R82) -/

theorem State.atLink_in_reset {s : State} (h : s.inReset = true) (p : Port) (f : State → PortState → PortState) :
    (.next (s.atLink p f) : Host.Outcome State Fault Refusal) = .next s := by
  rw [State.atLink_changes, if_pos h]

/-- In device reset the ports take part in no transfer: no request is served and no link event is heeded. -/
theorem exec_port_in_reset {c : Instr} {s : State} (hc : (portOf c).isSome = true) (h : s.inReset = true) :
    exec c s = .next s := by
  cases c with
  | status p => exact serve_in_reset s p 2 (fun s => (s, .result .ok (s.statusPayload p))) h
  | read _ _ | scan _ _ _ _ | windows _ | beginTxn _ | stageWrite _ _ _ _ _ | stageDelete _ _ _ _
  | dropEntry _ _ | commit _ | abort _ | lease _ _ _ | renew _ _ | release _ _ | breakLease _ _ | watch _ _
  | unwatch _ _ | defineWindow _ _ _ _ _ _ | clearWindow _ _ | format _ | portReset _ => exact serve_in_reset _ _ _ _ h
  | badFrame _ _ | truncated _ _ | frameTimeout _ _ | badLeadByte _ _ | resultFrame _ _ | scanBlockDelivered _ _
  | noticeFrame _ _ | noticeEntryDelivered _ _ => exact State.atLink_in_reset h _ _
  | deviceReset _ | resetRelease _ _ _ | mountEnd | pfwAssert | holdTakesEffect | pfwDeassert | leaseTick
  | leaseExpiry _ | jobChoice _ | pageProgramVerdict _ | pageEraseVerdict _ | formatJobBegin _ => cases hc

theorem exec_leaseTick_in_reset {s : State} (h : s.inReset = true) : exec .leaseTick s = .next s := by
  simp only [exec, execLeaseTick, h, if_true]

theorem exec_leaseExpiry_in_reset {s : State} (h : s.inReset = true) (w : WindowNo) :
    exec (.leaseExpiry w) s = .next s := by
  simp only [exec, execLeaseExpiry, h, Bool.true_eq_false, false_and, if_false]

/-! ## The release (R83, R163) -/

/-- With SVCEN the straps name the port of the number that SVCSEL1, SVCSEL0 spell (R163). -/
theorem Straps.names_eq : ∀ (svcen svcsel1 svcsel0 : Bool) (p : Port),
    Straps.names ⟨svcen, svcsel1, svcsel0⟩ p
      = (svcen && p == (if svcsel1 then if svcsel0 then 3 else 2 else if svcsel0 then 1 else 0)) := by
  decide

/-- Settles O35: the fields by `exec_deviceReset_eq`, the commands by what they do in reset, the release by its
straps. -/
theorem resetLosesVolatile : Obligations.ResetLosesVolatile := by
  refine ⟨fun cut s => ⟨_, _, exec_deviceReset_eq cut s, fun p => ?_, fun g => ?_⟩, fun c s h hc => ?_,
    fun svcen svcsel1 svcsel0 s => ⟨fun h => ?_, fun h => ?_⟩⟩
  · rw [Table.get_map]
    rfl
  · rw [s.cutOff_array_get cut g]
    cases s.op with
    | none => rfl
    | some op =>
      cases op with
      | program k i => cases cut <;> rfl
      | erase k =>
        by_cases hg : g = k
        · subst hg
          cases cut <;> rfl
        · simp only [hg, if_false]
  · rcases hc with port | rfl | ⟨w, rfl⟩
    · exact exec_port_in_reset port h
    · exact exec_leaseTick_in_reset h
    · exact exec_leaseExpiry_in_reset h w
  · simp only [exec, execResetRelease, h, Bool.false_eq_true, if_false]
  · simp only [exec, execResetRelease, h, if_true]
    refine ⟨_, rfl, fun p => ?_⟩
    rw [State.sampleStraps, Table.get_build, Straps.names_eq]
    rfl

end Sys2Proof.Machine
end

section
/-!
SUPPORT. O36: what a mount reads, which page it goes by, and how it ends (R21, R25, R34, R86, R89, R93).
-/

namespace Sys2Proof.Machine

/-! ## What a mount reads (R21) -/

section
variable {s : State} {g : PageNo} {i : PageImage}

theorem State.verdicts_get (s : State) (g : PageNo) : s.verdicts.get g = (s.array.get g).verdict := Table.get_map _ _ _

/-- The verdict is VALID with an image exactly where the page reads so. -/
theorem State.verdict_valid_iff : s.verdicts.get g = .valid i ↔ ReadsValid s.array g i := by
  rw [State.verdicts_get, ReadsValid]
  cases s.array.get g with
  | blank => simp [PageContent.verdict]
  | retired => simp [PageContent.verdict]
  | damaged => simp [PageContent.verdict]
  | programmed k =>
    have agrees : k.agrees = true ↔ k.check = Config.pageCheck k.header k.payload := beq_iff_eq
    rw [PageContent.verdict_programmed, PageContent.programmed.injEq]
    split
    · next valid =>
      constructor
      · intro h
        obtain rfl := PageVerdict.valid.inj h
        exact ⟨rfl, agrees.mp valid.1, valid.2⟩
      · rintro ⟨rfl, -⟩
        rfl
    · next damaged =>
      constructor
      · intro h
        cases h
      · rintro ⟨rfl, check, inRange⟩
        exact absurd ⟨agrees.mpr check, inRange⟩ damaged

/-- A page that holds an image and does not read as VALID is DAMAGED. -/
theorem State.verdict_damaged (hg : s.array.get g = .programmed i) (invalid : ¬ReadsValid s.array g i) :
    s.verdicts.get g = .damaged := by
  have other : ¬(i.agrees = true ∧ i.inRange = true) := fun ⟨agrees, inRange⟩ =>
    invalid ⟨hg, by simpa [PageImage.agrees] using agrees, inRange⟩
  rw [State.verdicts_get, hg, PageContent.verdict_programmed, if_neg other]

theorem mem_found_iff {f : Found} : f ∈ foundPages s.verdicts ↔ ReadsValid s.array f.page f.image :=
  (mem_foundPages _ f).trans State.verdict_valid_iff

theorem mem_foundEpochs_iff {f : Found} :
    f ∈ (foundPages s.verdicts).filter Found.isEpoch
      ↔ ReadsValid s.array f.page f.image ∧ f.image.header.kind = .epoch := by
  rw [List.mem_filter, mem_found_iff, Found.isEpoch, beq_iff_eq]

/-- A VALID EPOCH page has position 1 (Table 7). -/
theorem PageImage.position_of_epoch (valid : i.inRange = true) (epoch : i.header.kind = .epoch) :
    i.header.position = 1 := by
  unfold PageImage.inRange at valid
  rw [epoch] at valid
  cases hp : i.payload <;> simp [hp] at valid
  obtain ⟨-, ⟨⟨-, position⟩, -⟩, -⟩ := valid
  exact position

end

/-! ## The page that a mount goes by (R25, R89) -/

/-- `f` does not come before `x` in the order of sequence, then position, then page number (R25). -/
def Found.NotAfter (x f : Found) : Prop :=
  x.sequence.toNat < f.sequence.toNat
    ∨ x.sequence = f.sequence
      ∧ (x.image.header.position < f.image.header.position
        ∨ x.image.header.position = f.image.header.position ∧ x.page ≤ f.page)

theorem Found.NotAfter.refl (f : Found) : f.NotAfter f := .inr ⟨rfl, .inr ⟨rfl, le_refl _⟩⟩

theorem Found.NotAfter.trans {x y z : Found} (h : x.NotAfter y) (k : y.NotAfter z) : x.NotAfter z := by
  rcases h with h | ⟨eq, h⟩
  · rcases k with k | ⟨eq', -⟩
    · exact .inl (h.trans k)
    · exact .inl (eq' ▸ h)
  · rcases k with k | ⟨eq', k⟩
    · exact .inl (eq ▸ k)
    · refine .inr ⟨eq.trans eq', ?_⟩
      rcases h with h | ⟨pos, h⟩
      · rcases k with k | ⟨pos', -⟩
        · exact .inl (h.trans k)
        · exact .inl (pos' ▸ h)
      · rcases k with k | ⟨pos', k⟩
        · exact .inl (pos ▸ k)
        · exact .inr ⟨pos.trans pos', h.trans k⟩

theorem Found.notAfter_laterPage (a b : Found) : a.NotAfter (laterPage a b) ∧ b.NotAfter (laterPage a b) := by
  unfold laterPage
  split
  · next lt => exact ⟨.inl lt, .refl b⟩
  · next ge =>
    split
    · next gt => exact ⟨.refl a, .inl gt⟩
    · next le =>
      have same : a.sequence = b.sequence := BitVec.eq_of_toNat_eq (by omega)
      split
      · next lt => exact ⟨.inr ⟨same, .inl lt⟩, .refl b⟩
      · next ge =>
        split
        · next gt => exact ⟨.refl a, .inr ⟨same.symm, .inl gt⟩⟩
        · next le =>
          have position : a.image.header.position = b.image.header.position := by omega
          split
          · next lt => exact ⟨.inr ⟨same, .inr ⟨position, le_of_lt lt⟩⟩, .refl b⟩
          · next ge => exact ⟨.refl a, .inr ⟨same.symm, .inr ⟨position.symm, not_lt.mp ge⟩⟩⟩

theorem notAfter_foldl_laterPage (l : List Found) (f : Found) : ∀ x ∈ f :: l, x.NotAfter (l.foldl laterPage f) := by
  induction l generalizing f with
  | nil => exact List.forall_mem_singleton.mpr (.refl f)
  | cons g rest ih =>
    have later := ih (laterPage f g)
    have last := later _ List.mem_cons_self
    obtain ⟨hf, hg⟩ := Found.notAfter_laterPage f g
    exact List.forall_mem_cons.mpr ⟨hf.trans last, List.forall_mem_cons.mpr
      ⟨hg.trans last, fun x hx => later x (List.mem_cons_of_mem _ hx)⟩⟩

/-- The latest of some pages is one of them, and none comes after it (R25). -/
theorem latestPage_last {l : List Found} {f : Found} (h : latestPage l = some f) : f ∈ l ∧ ∀ x ∈ l, x.NotAfter f := by
  refine ⟨(latestPage_eq_some h).1, ?_⟩
  cases l with
  | nil => cases h
  | cons g rest =>
    obtain rfl := Option.some.inj h
    exact notAfter_foldl_laterPage rest g

/-! ## The classes of the pages (R86, R89) -/

section
variable (s : State) (g : PageNo)

theorem State.remounted_page_of_verdict :
    (s.verdicts.get g = .blank → s.remounted.page g = .clean)
      ∧ (s.verdicts.get g = .retired → s.remounted.page g = .bad)
      ∧ (s.verdicts.get g = .damaged → s.remounted.page g = .stale) := by
  obtain ⟨pages, -⟩ := s.remounted_fields
  rw [State.page, pages]
  exact mountedPages_of_verdict _ _ _ g

/-- BLANK, RETIRED and DAMAGED pages are CLEAN, BAD and STALE, one that does not read as VALID among the last (R21,
R86). -/
theorem State.remounted_page_of_content :
    (s.array.get g = .blank → s.remounted.page g = .clean) ∧ (s.array.get g = .retired → s.remounted.page g = .bad)
      ∧ (s.array.get g = .damaged → s.remounted.page g = .stale)
      ∧ ∀ i, s.array.get g = .programmed i → ¬ReadsValid s.array g i → s.remounted.page g = .stale := by
  obtain ⟨blank, retired, damaged⟩ := s.remounted_page_of_verdict g
  have verdict {c : PageContent} (h : s.array.get g = c) : s.verdicts.get g = c.verdict := by rw [s.verdicts_get, h]
  exact ⟨fun h => blank (verdict h), fun h => retired (verdict h), fun h => damaged (verdict h), fun i h invalid =>
    damaged (State.verdict_damaged h invalid)⟩

/-- A VALID page is neither CLEAN nor BAD after a mount. -/
theorem State.remounted_page_of_valid {i : PageImage} (valid : s.verdicts.get g = .valid i) :
    (s.remounted.page g).isClean = false ∧ (s.remounted.page g).isBad = false := by
  rw [State.page_remounted, valid]
  split
  · exact ⟨rfl, rfl⟩
  · unfold mountedEntry
    simp only
    split_ifs <;> exact ⟨rfl, rfl⟩

/-- After a mount exactly the BLANK pages are CLEAN, and exactly the RETIRED pages are BAD (R86). -/
theorem State.remounted_isClean_isBad :
    (s.remounted.page g).isClean = decide (s.array.get g = .blank)
      ∧ (s.remounted.page g).isBad = decide (s.array.get g = .retired) := by
  obtain ⟨blank, retired, damaged, invalid⟩ := s.remounted_page_of_content g
  cases h : s.array.get g with
  | blank => simp [blank h, PageEntry.isClean, PageEntry.isBad]
  | retired => simp [retired h, PageEntry.isClean, PageEntry.isBad]
  | damaged => simp [damaged h, PageEntry.isClean, PageEntry.isBad]
  | programmed i =>
    by_cases valid : ReadsValid s.array g i
    · simp [s.remounted_page_of_valid g (State.verdict_valid_iff.mpr valid)]
    · simp [invalid i h valid, PageEntry.isClean, PageEntry.isBad]

end

theorem State.remounted_badCount (s : State) :
    s.remounted.badCount = (allPages.filter fun g => s.array.get g = .retired).length := by
  obtain ⟨-, -, -, -, bad, -⟩ := s.remounted_fields
  rw [bad, ← Table.count_eq_length_filter]
  exact congrArg List.length (List.filter_congr fun g _ => (s.remounted_isClean_isBad g).2)

/-- The tables rebuilt that `remounted_fields` does not name. -/
theorem State.remounted_others (s : State) :
    s.remounted.pointer = mountedPointer (foundPages s.verdicts)
      ∧ s.remounted.windows = mountedWindows s.remounted.records
      ∧ s.remounted.recovered = mountRecovered s.verdicts (foundPages s.verdicts) := by
  unfold State.remounted
  rw [State.rebuild_eq]
  exact ⟨rfl, rfl, rfl⟩

/-! ## Pointer and next sequence (R25, R34) -/

theorem State.remounted_of_no_valid {s : State} (noValid : ∀ g i, ¬ReadsValid s.array g i) :
    s.remounted.nextSequence = 1 ∧ s.remounted.pointer = 0 := by
  have found : foundPages s.verdicts = [] := List.eq_nil_iff_forall_not_mem.mpr fun f hf =>
    noValid _ _ (mem_found_iff.mp hf)
  obtain ⟨-, -, -, next, -⟩ := s.remounted_fields
  obtain ⟨pointer, -⟩ := s.remounted_others
  rw [next, pointer, found]
  exact ⟨rfl, rfl⟩

theorem State.remounted_of_valid {s : State} (someValid : ∃ g i, ReadsValid s.array g i) :
    ∃ f : Found, ReadsValid s.array f.page f.image ∧ s.remounted.nextSequence = f.sequence + 1
      ∧ s.remounted.pointer = f.page + 1 ∧ ∀ g i, ReadsValid s.array g i → (⟨g, i⟩ : Found).NotAfter f := by
  obtain ⟨g, i, valid⟩ := someValid
  have mem : (⟨g, i⟩ : Found) ∈ foundPages s.verdicts := mem_found_iff.mpr valid
  obtain ⟨f, latest⟩ := latestPage_isSome (List.ne_nil_of_mem mem)
  obtain ⟨hf, last⟩ := latestPage_last latest
  obtain ⟨-, -, -, next, -⟩ := s.remounted_fields
  obtain ⟨pointer, -⟩ := s.remounted_others
  rw [mountedSequence, latest] at next
  rw [mountedPointer, latest] at pointer
  exact ⟨f, mem_found_iff.mp hf, next, pointer, fun g i valid => last ⟨g, i⟩ (mem_found_iff.mpr valid)⟩

/-! ## The EPOCH page (R89) -/

theorem epochPage_eq_none {s : State} (noEpoch : ∀ g i, ReadsValid s.array g i → i.header.kind ≠ .epoch) :
    epochPage (foundPages s.verdicts) = none := by
  have found : (foundPages s.verdicts).filter Found.isEpoch = [] :=
    List.eq_nil_iff_forall_not_mem.mpr fun f hf => by
      obtain ⟨valid, epoch⟩ := mem_foundEpochs_iff.mp hf
      exact noEpoch _ _ valid epoch
  rw [epochPage, found]
  rfl

/-- Among the VALID EPOCH pages the mount goes by the one of highest sequence, and of one sequence by the higher page
(R89). -/
theorem epochPage_eq_some {s : State} (someEpoch : ∃ g i, ReadsValid s.array g i ∧ i.header.kind = .epoch) :
    ∃ e j, epochPage (foundPages s.verdicts) = some e ∧ ReadsValid s.array e j ∧ j.header.kind = .epoch
      ∧ ∀ g i, ReadsValid s.array g i → i.header.kind = .epoch →
        i.header.sequence.toNat < j.header.sequence.toNat ∨ i.header.sequence = j.header.sequence ∧ g ≤ e := by
  obtain ⟨g, i, here⟩ := someEpoch
  have mem : (⟨g, i⟩ : Found) ∈ (foundPages s.verdicts).filter Found.isEpoch := mem_foundEpochs_iff.mpr here
  obtain ⟨f, latest⟩ := latestPage_isSome (List.ne_nil_of_mem mem)
  obtain ⟨hf, last⟩ := latestPage_last latest
  obtain ⟨valid, epoch⟩ := mem_foundEpochs_iff.mp hf
  refine ⟨f.page, f.image, by rw [epochPage, latest]; rfl, valid, epoch, fun h k hv hk => ?_⟩
  have position : k.header.position = f.image.header.position := by
    obtain ⟨-, -, inRange⟩ := valid
    obtain ⟨-, -, inRange'⟩ := hv
    rw [PageImage.position_of_epoch inRange' hk, PageImage.position_of_epoch inRange epoch]
  rcases last ⟨h, k⟩ (mem_foundEpochs_iff.mpr ⟨hv, hk⟩) with lt | ⟨same, lt | ⟨-, le⟩⟩
  · exact .inl lt
  · exact absurd position (Nat.ne_of_lt lt)
  · exact .inr ⟨same, le⟩

/-- With an EPOCH page the tables are empty, the recovered flag is set, and every VALID page is STALE (R89, R92). -/
theorem State.remounted_of_epoch {s : State} {e : PageNo} (he : epochPage (foundPages s.verdicts) = some e) :
    (∀ r, s.remounted.record r = .unwritten) ∧ s.remounted.windows = .fill 16 none ∧ s.remounted.census = []
      ∧ s.remounted.recovered = true ∧ ∀ g i, ReadsValid s.array g i → s.remounted.page g = .stale := by
  have complete : mountComplete s.verdicts = [] := by rw [mountComplete, he]; rfl
  have unwritten (r : RecordNo) : s.remounted.record r = .unwritten := by
    rw [State.record_remounted, complete]
    rfl
  obtain ⟨-, windows, recovered⟩ := s.remounted_others
  refine ⟨unwritten, ?_, ?_, ?_, fun g i valid => ?_⟩
  · have layout : s.remounted.records.get Config.layoutRecord = .unwritten := unwritten _
    rw [windows, mountedWindows, layout]
    rfl
  · rw [State.census_remounted, complete]
    rfl
  · obtain ⟨f, latest, -⟩ := Option.map_eq_some_iff.mp he
    obtain ⟨mem, epoch⟩ := List.mem_filter.mp (latestPage_last latest).1
    have found : (foundPages s.verdicts).any Found.isEpoch = true := List.any_eq_true.mpr ⟨f, mem, epoch⟩
    rw [recovered, mountRecovered, found, Bool.or_true]
  · rw [State.page_remounted, he, State.verdict_valid_iff.mpr valid]
    rfl

/-! ## The end of a mount (R93) -/

/-- The state that a mount with these tables leaves: STORE_STATE told to every port, and what the engine then does. -/
def State.mountEnded (tables : State) (store : StoreState) (job : Job) (op : Option PageOp) : State :=
  { ({ tables with store := store } : State).notifyAll (.storeState store) with job := job, op := op }

/-- The mount changes these fields, and leaves the engine free (R85, R91, R92). -/
theorem State.remounted_changes (s : State) :
    ∃ pages records windows census pointer next bad recovered, s.remounted
      = { s with
          pages := pages, records := records, windows := windows, census := census, pointer := pointer
          nextSequence := next, badCount := bad, recovered := recovered, job := .idle, op := none } := by
  obtain ⟨pages, records, windows, census, pointer, next, bad, recovered, h⟩ := s.rebuild_changes s.verdicts
  exact ⟨pages, records, windows, census, pointer, next, bad, recovered, by rw [State.remounted, h]⟩

theorem State.mountEnded_told (tables : State) (store : StoreState) :
    ({ tables with store := store } : State).notifyAll (.storeState store)
      = tables.mountEnded store tables.job tables.op := rfl

/-- The second step of a format that a mount goes on with (R89, R167). -/
theorem State.mountEnded_sweep (tables : State) (e : PageNo) :
    (({ tables with store := .formatting } : State).notifyAll (.storeState .formatting)).sweep 0 (some e) []
      = match tables.sweepTarget 0 (some e) with
        | some g =>
          tables.mountEnded .formatting (.format (.sweep 0 (some e)) []) (if tables.pfw then none else some (.erase g))
        | none =>
          tables.mountEnded .formatting (.format (.eraseEpoch e) [])
            (if tables.pfw then none else some (.erase e)) := by
  have target :
      (({ tables with store := .formatting } : State).notifyAll (.storeState .formatting)).sweepTarget 0 (some e)
        = tables.sweepTarget 0 (some e) := rfl
  rw [State.sweep_eq, target]
  cases tables.sweepTarget 0 (some e) <;> rfl

theorem exec_mountEnd_of_mount {s : State} (inReset : s.inReset = false) (job : s.job = .mount) :
    exec .mountEnd s = .next (s.endMount s.verdicts) := by
  simp only [exec, execMountEnd, inReset, job, and_self, if_true]

theorem exec_mountEnd_of_none {s : State} (h : ¬(s.inReset = false ∧ s.job = .mount)) : exec .mountEnd s = .next s := by
  simp only [exec, execMountEnd, h, if_false]

/-- A mount that finds no EPOCH page leaves the engine free (R93). -/
theorem State.endMount_of_no_epoch {s : State} (he : epochPage (foundPages s.verdicts) = none) :
    s.endMount s.verdicts
      = s.remounted.mountEnded (if 32 < s.remounted.badCount then .readOnly .media else .ready) .idle none := by
  obtain ⟨-, -, -, -, -, job, op⟩ := s.remounted_fields
  rw [State.endMount_eq, he]
  exact (s.remounted.mountEnded_told _).trans (by rw [job, op]; rfl)

/-- A mount that finds an EPOCH page goes on with the second step of the format (R89, R167). -/
theorem State.endMount_of_epoch {s : State} {e : PageNo} (he : epochPage (foundPages s.verdicts) = some e) :
    s.endMount s.verdicts = match s.remounted.sweepTarget 0 (some e) with
      | some g =>
        s.remounted.mountEnded .formatting (.format (.sweep 0 (some e)) []) (if s.pfw then none else some (.erase g))
      | none =>
        s.remounted.mountEnded .formatting (.format (.eraseEpoch e) []) (if s.pfw then none else some (.erase e)) := by
  have pfw : s.remounted.pfw = s.pfw := by
    obtain ⟨_, _, _, _, _, _, _, _, h⟩ := s.remounted_changes
    rw [h]
  rw [State.endMount_eq, he, ← pfw]
  exact s.remounted.mountEnded_sweep e

/-- However it ends, a mount leaves the tables that it rebuilt. -/
theorem State.endMount_ends (s : State) :
    ∃ store job op, s.endMount s.verdicts = s.remounted.mountEnded store job op := by
  cases he : epochPage (foundPages s.verdicts) with
  | none => exact ⟨_, _, _, State.endMount_of_no_epoch he⟩
  | some e =>
    rw [State.endMount_of_epoch he]
    cases s.remounted.sweepTarget 0 (some e) <;> exact ⟨_, _, _, rfl⟩

/-- What the end of a mount with these tables leaves of the state, and what it puts into the ports (R85, R93). -/
structure State.Mounted (s tables t : State) : Prop where
  frame : t = { s with
    ports := t.ports, records := t.records, windows := t.windows, pages := t.pages, pointer := t.pointer
    badCount := t.badCount, nextSequence := t.nextSequence, census := t.census, store := t.store
    recovered := t.recovered, job := t.job, op := t.op }
  port : ∀ p, t.port p = { s.port p with notices := appendNotice (.storeState t.store) (s.port p).notices }
  page : ∀ g, t.page g = tables.page g
  record : ∀ r, t.record r = tables.record r
  windows : t.windows = tables.windows
  census : t.census = tables.census
  pointer : t.pointer = tables.pointer
  badCount : t.badCount = tables.badCount
  nextSequence : t.nextSequence = tables.nextSequence
  recovered : t.recovered = tables.recovered

theorem State.endMount_mounted (s : State) : s.Mounted s.remounted (s.endMount s.verdicts) := by
  obtain ⟨store, job, op, ends⟩ := s.endMount_ends
  obtain ⟨_, _, _, _, _, _, _, _, tables⟩ := s.remounted_changes
  rw [ends, tables]
  exact ⟨rfl, fun p => State.port_notifyAll _ p _, fun _ => rfl, fun _ => rfl, rfl, rfl, rfl, rfl, rfl, rfl⟩

/-- The first page to erase past EPOCH page `e`, in terms of what the pages hold (R89, R167). -/
theorem State.remounted_sweepTarget (s : State) (e : PageNo) :
    (∀ g, s.array.get g ≠ .blank → s.array.get g ≠ .retired → g ≠ e →
        (∀ h < g, s.array.get h = .blank ∨ s.array.get h = .retired ∨ h = e) →
        s.remounted.sweepTarget 0 (some e) = some g)
      ∧ ((∀ g, s.array.get g = .blank ∨ s.array.get g = .retired ∨ g = e) →
        s.remounted.sweepTarget 0 (some e) = none) := by
  have stands (g : PageNo) : (decide (0 ≤ g.val) && !(s.remounted.page g).isClean && !(s.remounted.page g).isBad
      && some e != some g) = true ↔ ¬(s.array.get g = .blank ∨ s.array.get g = .retired ∨ g = e) := by
    obtain ⟨clean, bad⟩ := s.remounted_isClean_isBad g
    simp only [Nat.zero_le, decide_true, Bool.true_and, clean, bad, Bool.and_eq_true, Bool.not_eq_true',
      decide_eq_false_iff_not, bne_iff_ne, ne_eq, Option.some.injEq, not_or, and_assoc, eq_comm (a := e)]
  refine ⟨fun g blank retired epoch passed => ?_, fun all => ?_⟩
  · exact find?_allPages_eq_some.mpr ⟨(stands g).mpr (by simp [blank, retired, epoch]), fun h lt =>
      Bool.eq_false_iff.mpr fun hs => (stands h).mp hs (passed h lt)⟩
  · exact List.find?_eq_none.mpr fun g _ hs => (stands g).mp hs (all g)

/-- Settles O36: the tables are those rebuilt, whichever way the mount ends; the EPOCH page decides which way. -/
theorem mountEnds : Obligations.MountEnds := by
  refine fun s => ⟨exec_mountEnd_of_none, fun inReset job => ⟨_, exec_mountEnd_of_mount inReset job, ?_⟩⟩
  have mounted := s.endMount_mounted
  refine ⟨mounted.frame, mounted.port, fun g => ?_, ?_, fun noValid => ?_, fun someValid => ?_, fun someEpoch => ?_,
    fun noEpoch => ?_⟩
  · rw [mounted.page]
    exact s.remounted_page_of_content g
  · rw [mounted.badCount, s.remounted_badCount]
  · rw [mounted.nextSequence, mounted.pointer]
    exact State.remounted_of_no_valid noValid
  · obtain ⟨f, valid, sequence, pointer, last⟩ := State.remounted_of_valid someValid
    exact ⟨f.page, f.image, valid, mounted.nextSequence.trans sequence, mounted.pointer.trans pointer, last⟩
  · obtain ⟨e, j, he, valid, epoch, last⟩ := epochPage_eq_some someEpoch
    obtain ⟨records, windows, census, recovered, stale⟩ := State.remounted_of_epoch he
    obtain ⟨first, nothing⟩ := s.remounted_sweepTarget e
    have resumed := State.endMount_of_epoch he
    have formatting : (s.endMount s.verdicts).store = .formatting := by
      rw [resumed]
      cases s.remounted.sweepTarget 0 (some e) <;> rfl
    refine ⟨e, j, valid, epoch, last, formatting, fun r => (mounted.record r).trans (records r),
      mounted.windows.trans windows, mounted.census.trans census, mounted.recovered.trans recovered,
      fun g i valid => (mounted.page g).trans (stale g i valid), fun g blank retired other passed => ?_, fun all => ?_⟩
    · rw [resumed, first g blank retired other passed]
      exact ⟨rfl, rfl⟩
    · rw [resumed, nothing all]
      exact ⟨rfl, rfl⟩
  · rw [mounted.badCount, State.endMount_of_no_epoch (epochPage_eq_none noEpoch)]
    exact ⟨rfl, rfl, rfl⟩

end Sys2Proof.Machine
end

section
/-!
SUPPORT. O52 and O54: the acts of the commands of the ports and of the timebase, as far as they bear on transactions,
notices and leases.
-/

namespace Sys2Proof.Machine

/-! ## Lease states as R104 shapes them -/

theorem LeaseState.wellShaped_of_free {l : LeaseState} (h : l.held = none) : l.WellShaped ↔ l.waiters = [] := by
  unfold LeaseState.WellShaped
  rw [h]

theorem LeaseState.wellShaped_of_held {l : LeaseState} {k : HeldLease} (h : l.held = some k) :
    l.WellShaped ↔ l.waiters.length ≤ 3 ∧ l.waiters.Nodup ∧ k.port ∉ l.waiters := by
  unfold LeaseState.WellShaped
  rw [h]

theorem LeaseState.wellShaped_free : LeaseState.free.WellShaped := (LeaseState.wellShaped_of_free rfl).mpr rfl

/-- Another timer or another freeze of the same holder. -/
theorem LeaseState.WellShaped.rehold {l : LeaseState} {k k' : HeldLease} (h : l.WellShaped) (held : l.held = some k)
    (port : k'.port = k.port) : ({ l with held := some k' } : LeaseState).WellShaped := by
  rw [LeaseState.wellShaped_of_held rfl, port]
  exact (LeaseState.wellShaped_of_held held).mp h

/-- A free window has nobody waiting, so its new holder does not wait (R107). -/
theorem LeaseState.WellShaped.grant {l : LeaseState} (h : l.WellShaped) (free : l.held = none) (k : HeldLease) :
    ({ l with held := some k } : LeaseState).WellShaped := by
  rw [LeaseState.wellShaped_of_held rfl, (LeaseState.wellShaped_of_free free).mp h]
  simp

/-- The oldest waiter waits no more once it holds the lease (R106). -/
theorem LeaseState.WellShaped.passedOn {l : LeaseState} (h : l.WellShaped) (ticks : Nat) :
    (l.passedOn ticks).WellShaped := by
  unfold LeaseState.passedOn
  cases waits : l.waiters with
  | nil => exact (LeaseState.wellShaped_of_free rfl).mpr rfl
  | cons q rest =>
    cases held : l.held with
    | none =>
      rw [LeaseState.wellShaped_of_free held, waits] at h
      cases h
    | some k =>
      rw [LeaseState.wellShaped_of_held held, waits] at h
      obtain ⟨few, nodup, -⟩ := h
      obtain ⟨notIn, nodup⟩ := List.nodup_cons.mp nodup
      exact (LeaseState.wellShaped_of_held rfl).mpr ⟨by simp at few ⊢; omega, nodup, notIn⟩

theorem LeaseState.WellShaped.leave {l : LeaseState} (h : l.WellShaped) (p : Port) :
    ({ l with waiters := l.waiters.filter fun q => q != p } : LeaseState).WellShaped := by
  cases held : l.held with
  | none =>
    rw [LeaseState.wellShaped_of_free held] at h
    rw [LeaseState.wellShaped_of_free rfl, h]
    rfl
  | some k =>
    obtain ⟨few, nodup, notIn⟩ := (LeaseState.wellShaped_of_held held).mp h
    exact (LeaseState.wellShaped_of_held rfl).mpr ⟨(List.length_filter_le _ _).trans few, nodup.filter _,
      fun waits => notIn (List.mem_of_mem_filter waits)⟩

/-- Of the four ports, at most three wait beside the holder (R104, R107). -/
theorem LeaseState.WellShaped.join {l : LeaseState} {k : HeldLease} {p : Port} (h : l.WellShaped)
    (held : l.held = some k) (other : k.port ≠ p) :
    ({ l with waiters := joinWait p l.waiters } : LeaseState).WellShaped := by
  unfold joinWait
  split
  · exact h
  · next notIn =>
    obtain ⟨-, nodup, outside⟩ := (LeaseState.wellShaped_of_held held).mp h
    have all : (k.port :: (l.waiters ++ [p])).Nodup := by
      rw [List.nodup_cons, List.nodup_append]
      simp only [List.mem_append, List.mem_singleton, not_or]
      refine ⟨⟨outside, other⟩, nodup, List.nodup_singleton p, ?_⟩
      rintro a ha b rfl rfl
      exact notIn ha
    have few := List.Nodup.length_le_card all
    obtain ⟨outside, nodup⟩ := List.nodup_cons.mp all
    rw [Fintype.card_fin, List.length_cons] at few
    exact (LeaseState.wellShaped_of_held (l := { l with waiters := l.waiters ++ [p] }) held).mpr
      ⟨Nat.le_of_succ_le_succ few, nodup, outside⟩

/-! ## Acts -/

/-- Port `d` has the transaction and the list of port `c`, and its notices stay within their bound (R126). -/
structure PortState.KeepsTxn (c d : PortState) : Prop where
  txn : d.txn = c.txn
  staging : d.staging = c.staging
  notices : c.notices.length ≤ 16 → d.notices.length ≤ 16

theorem PortState.KeepsTxn.refl (c : PortState) : c.KeepsTxn c := ⟨rfl, rfl, id⟩

theorem PortState.KeepsTxn.trans {c d e : PortState} (h : c.KeepsTxn d) (k : d.KeepsTxn e) : c.KeepsTxn e :=
  ⟨k.txn.trans h.txn, k.staging.trans h.staging, k.notices ∘ h.notices⟩

theorem PortState.keepsTxn_append (c : PortState) (b : NoticeBody) :
    c.KeepsTxn { c with notices := appendNotice b c.notices } := ⟨rfl, rfl, appendNotice_length_le b c.notices⟩

/-- Every port keeps its transaction, leases keep their shape, and the HOLD flag and the level of PFW stand. -/
structure State.KeepsTxns (s t : State) : Prop where
  port : ∀ p, (s.port p).KeepsTxn (t.port p)
  lease : ∀ w, (s.lease w).WellShaped → (t.lease w).WellShaped
  hold : t.hold = s.hold
  pfw : t.pfw = s.pfw

theorem State.KeepsTxns.refl (s : State) : s.KeepsTxns s := ⟨fun _ => .refl _, fun _ => id, rfl, rfl⟩

theorem State.KeepsTxns.trans {s t u : State} (h : s.KeepsTxns t) (k : t.KeepsTxns u) : s.KeepsTxns u where
  port p := (h.port p).trans (k.port p)
  lease w := k.lease w ∘ h.lease w
  hold := k.hold.trans h.hold
  pfw := k.pfw.trans h.pfw

theorem State.KeepsTxns.foldl {α : Type} {f : State → α → State} (h : ∀ (u : State) a, u.KeepsTxns (f u a)) (l : List α)
    (s : State) : s.KeepsTxns (l.foldl f s) := by
  induction l generalizing s with
  | nil => exact .refl s
  | cons a rest ih => exact (h s a).trans (ih (f s a))

section
variable (s : State)

/-- A change of one port that leaves its transaction. -/
theorem State.onPort_keepsTxns {p : Port} {f : PortState → PortState} (h : (s.port p).KeepsTxn (f (s.port p))) :
    s.KeepsTxns (s.onPort p f) := by
  refine ⟨fun q => ?_, fun _ => id, rfl, rfl⟩
  rw [State.port_onPort]
  split
  · next e =>
    subst e
    exact h
  · exact .refl _

theorem State.onPorts_keepsTxns {f : PortState → PortState} (h : ∀ c : PortState, c.KeepsTxn (f c)) :
    s.KeepsTxns (s.onPorts f) :=
  ⟨fun q => (s.port_onPorts q f).symm ▸ h _, fun _ => id, rfl, rfl⟩

theorem State.notify_keepsTxns (p : Port) (b : NoticeBody) : s.KeepsTxns (s.notify p b) :=
  s.onPort_keepsTxns (PortState.keepsTxn_append _ b)

theorem State.notifyAll_keepsTxns (b : NoticeBody) : s.KeepsTxns (s.notifyAll b) :=
  s.onPorts_keepsTxns fun c => c.keepsTxn_append b

theorem State.setLease_keepsTxns {w : WindowNo} {l : LeaseState} (h : (s.lease w).WellShaped → l.WellShaped) :
    s.KeepsTxns (s.setLease w l) := by
  refine ⟨fun _ => .refl _, fun v => ?_, rfl, rfl⟩
  rw [State.lease_setLease]
  split
  · next e =>
    subst e
    exact h
  · exact id

end

/-- An act at port `p`, which one command may bring several of: what it does to transactions, notices, leases and the
queue. -/
inductive State.Acts (p : Port) (s : State) : State → Prop where
  /-- Notices come or go, or the ports change in what is no part of a transaction. -/
  | ports {ports : Table PortState 4} (h : ∀ q, (s.port q).KeepsTxn (ports.get q)) :
    State.Acts p s { s with ports := ports }
  /-- Leases are granted, loaded, frozen or passed on. -/
  | leases {leases : Table LeaseState 16} (h : ∀ w, (s.lease w).WellShaped → (leases.get w).WellShaped) :
    State.Acts p s { s with leases := leases }
  /-- BEGIN (R40). -/
  | opens (free : (s.port p).txn = .none) :
    State.Acts p s (s.onPort p fun c => { c with txn := .opened, staging := .records [] })
  /-- An entry joins or leaves the list (R41 to R45). -/
  | stages {es : List StagedEntry} (opened : (s.port p).txn = .opened)
    (bounded : (s.port p).staging.Bounded → (Staging.records es).Bounded) :
    State.Acts p s (s.onPort p fun c => { c with staging := .records es })
  /-- A commit is submitted (R46, R118, R119). -/
  | submits {st : Staging} (ready : s.store = .ready)
    (open_ : (s.port p).txn = .none ∨ (s.port p).txn = .opened)
    (bounded : (s.port p).staging.Bounded → st.Bounded) : State.Acts p s (s.submit p st).1
  /-- An OPEN transaction is abandoned (R48, R157). -/
  | discards {f : PortState → PortState} (opened : (s.port p).txn = .opened) (txn : (f (s.port p)).txn = .none)
    (staging : (f (s.port p)).staging = .records []) (notices : (f (s.port p)).notices = (s.port p).notices) :
    State.Acts p s (s.onPort p f)
  /-- A queued commit is abandoned (R51). -/
  | fails {e : QueueEntry} {tell : Bool} (queued : s.queueEntry p = some e) :
    State.Acts p s (s.failQueued e .aborted none tell)
  /-- FORMAT is accepted (R164). -/
  | formats : State.Acts p s s.acceptFormat

/-- Some acts in turn. -/
abbrev State.Runs (p : Port) : State → State → Prop := Relation.ReflTransGen (State.Acts p)

section
variable {s t : State} {p : Port}

theorem State.Acts.runs (h : s.Acts p t) : s.Runs p t := .single h

/-- A change of one port that leaves its transaction. -/
theorem State.Acts.onPort {q : Port} {f : PortState → PortState} (h : (s.port q).KeepsTxn (f (s.port q))) :
    s.Acts p (s.onPort q f) := .ports (s.onPort_keepsTxns h).port

theorem State.Acts.notify (q : Port) (b : NoticeBody) : s.Acts p (s.notify q b) :=
  .onPort (PortState.keepsTxn_append _ b)

theorem State.Acts.setLease {w : WindowNo} {l : LeaseState} (h : (s.lease w).WellShaped → l.WellShaped) :
    s.Acts p (s.setLease w l) := .leases (s.setLease_keepsTxns h).lease

theorem State.runs_loadTimer (w : WindowNo) : s.Runs p (s.loadTimer w) := by
  unfold State.loadTimer
  split
  · next k held => exact .single (.setLease fun h => h.rehold held rfl)
  · exact .refl

/-- A window passes on: its lease state, and the notice to its new holder (R106). -/
theorem State.passOn_eq (s : State) (w : WindowNo) :
    s.passOn w = (s.setLease w ((s.lease w).passedOn (s.leaseTime w))).sendAll ((s.lease w).grants w) := by
  unfold State.passOn LeaseState.passedOn LeaseState.grants
  cases (s.lease w).waiters <;> rfl

theorem State.runs_sendAll (l : List (Port × NoticeBody)) : s.Runs p (s.sendAll l) := by
  induction l generalizing s with
  | nil => exact .refl
  | cons x rest ih => exact .head (.notify x.1 x.2) ih

theorem State.runs_passOn (w : WindowNo) : s.Runs p (s.passOn w) := by
  rw [State.passOn_eq]
  exact .head (.setLease fun h => h.passedOn _) (State.runs_sendAll _)

theorem State.Acts.freeze (st : Staging) : s.Acts p (s.freeze p st) := by
  refine .leases fun w h => ?_
  change ((s.freeze p st).lease w).WellShaped
  rw [State.lease_freeze]
  split
  · next k held =>
    split
    · exact h.rehold held rfl
    · exact h
  · exact h

theorem State.Acts.leaveWaitLists : s.Acts p (s.leaveWaitLists p) := by
  refine .leases fun w h => ?_
  rw [Table.get_map]
  exact h.leave p

/-- A fold of operations that are each some acts. -/
theorem State.runs_foldl {α : Type} {f : State → α → State} (h : ∀ (u : State) a, u.Runs p (f u a)) (l : List α) :
    s.Runs p (l.foldl f s) := by
  induction l generalizing s with
  | nil => exact .refl
  | cons a rest ih => exact (h s a).trans ih

theorem State.runs_tickWindow (w : WindowNo) : s.Runs p (s.tickWindow w) := by
  unfold State.tickWindow
  split
  · next k held =>
    split
    · exact .refl
    · split
      · unfold State.expire
        rw [held]
        exact .head (.notify _ _) (State.runs_passOn w)
      · exact .single (.setLease fun h => h.rehold held rfl)
  · exact .refl

theorem State.runs_tick : s.Runs p s.tick := State.runs_foldl (fun _ w => State.runs_tickWindow w) allWindows

end

/-! ## Staging lists within their bounds (R38) -/

/-- The data of an entry is within the bound of a record (R2, R38). -/
def StagedEntry.DataBounded (e : StagedEntry) : Prop := ∀ data, e.op = .write data → data.length ≤ 32

theorem Staging.bounded_nil : (Staging.records []).Bounded := ⟨Nat.zero_le 8, List.nodup_nil, fun _ h => nomatch h⟩

theorem PortState.bounded_staged {c : PortState} (h : c.staging.Bounded) : (Staging.records c.staged).Bounded := by
  unfold PortState.staged
  split
  · next es hs => rwa [hs] at h
  · exact Staging.bounded_nil
  · exact Staging.bounded_nil

/-- A list without some of its entries is a list in bounds. -/
theorem Staging.Bounded.filter {es : List StagedEntry} (h : (Staging.records es).Bounded) (f : StagedEntry → Bool) :
    (Staging.records (es.filter f)).Bounded :=
  ⟨(List.length_filter_le _ _).trans h.1, h.2.1.sublist (List.filter_sublist.map _),
    fun e he => h.2.2 e (List.mem_of_mem_filter he)⟩

theorem holdsRecord_iff (es : List StagedEntry) (r : HostRecord) : holdsRecord es r = true ↔ ∃ x ∈ es, x.record = r := by
  simp [holdsRecord]

/-- An entry replaced in its place, or appended with room, leaves a list in bounds (R38, R41, R44). -/
theorem Staging.Bounded.stageInto {es : List StagedEntry} {e : StagedEntry} (h : (Staging.records es).Bounded)
    (data : e.DataBounded) (room : ¬(holdsRecord es e.record = false ∧ Config.stageLimit ≤ es.length)) :
    (Staging.records (stageInto es e)).Bounded := by
  obtain ⟨few, nodup, within⟩ := h
  unfold Sys2Proof.Machine.stageInto
  split
  · have records : (es.map fun x => if x.record = e.record then e else x).map StagedEntry.record
        = es.map StagedEntry.record := by
      rw [List.map_map]
      refine List.map_congr_left fun x _ => ?_
      simp only [Function.comp]
      split
      · next same => exact same.symm
      · rfl
    refine ⟨by rwa [List.length_map], records ▸ nodup, fun x hx => ?_⟩
    obtain ⟨y, hy, rfl⟩ := List.mem_map.mp hx
    split
    · exact data
    · exact within y hy
  · next absent =>
    have short : es.length < 8 := by
      simp only [absent, Config.stageLimit] at room
      simpa using room
    have fresh : e.record ∉ es.map StagedEntry.record := fun hx => by
      obtain ⟨x, hx, same⟩ := List.mem_map.mp hx
      exact absent ((holdsRecord_iff es e.record).mpr ⟨x, hx, same⟩)
    refine ⟨by simpa using short, ?_, fun x hx => ?_⟩
    · rw [List.map_append, List.map_singleton]
      exact List.nodup_append.mpr ⟨nodup, List.nodup_singleton _, by
        rintro a ha b hb rfl
        exact fresh (List.mem_singleton.mp hb ▸ ha)⟩
    · rcases List.mem_append.mp hx with hx | hx
      · exact within x hx
      · exact List.mem_singleton.mp hx ▸ data

end Sys2Proof.Machine
end

section
/-! SUPPORT. O52 and O54: the acts that each command of a port or of the timebase brings. -/

namespace Sys2Proof.Machine

/-! ## The bodies of the requests -/

section
variable (s : State) (p : Port)

theorem runs_readBody (record : Byte) : s.Runs p (readBody record s).1 := by
  unfold readBody
  split
  · exact .refl
  · split <;> exact .refl

theorem runs_scanBody (start scope direction : Byte) : s.Runs p (scanBody start scope direction s).1 := by
  unfold scanBody
  split
  · split <;> exact .refl
  · exact .refl

theorem runs_windowsBody : s.Runs p (windowsBody s).1 := by
  unfold windowsBody
  split <;> exact .refl

theorem StoreState.ready_of_writeGate {st : StoreState} (h : st.writeGate = none) : st = .ready := by
  cases st with
  | ready => rfl
  | mounting => cases h
  | formatting => cases h
  | readOnly _ => cases h

theorem runs_beginBody : s.Runs p (beginBody p s).1 := by
  unfold beginBody
  split
  · exact .refl
  · split
    · next free => exact .single (.opens free)
    · exact .refl

theorem State.runs_stageReload (r : HostRecord) : s.Runs p (s.stageReload r) := by
  unfold State.stageReload
  split
  · exact State.runs_loadTimer _
  · exact .refl

theorem State.stageReload_port (r : HostRecord) (q : Port) : (s.stageReload r).port q = s.port q := by
  unfold State.stageReload
  split
  · next w _ _ =>
    obtain ⟨_, h⟩ := s.loadTimer_changes w
    rw [h]
    rfl
  · rfl

theorem runs_stageBody {e : StagedEntry} (data : e.DataBounded) : s.Runs p (stageBody p e s).1 := by
  unfold stageBody
  split
  · exact .refl
  · split
    · next opened =>
      split
      · exact .refl
      · simp only
        split
        · exact .refl
        · next room =>
          refine (s.runs_stageReload p e.record).tail (.stages ?_ ?_) <;> rw [State.stageReload_port]
          · exact opened
          · exact fun h => (PortState.bounded_staged h).stageInto data room
    · exact .refl

theorem runs_stageWriteBody (record presence : Byte) (expected : Version) (data : List Byte) :
    s.Runs p (stageWriteBody p record presence expected data s).1 := by
  unfold stageWriteBody
  split
  · split
    · next within =>
      refine runs_stageBody s p fun d hd => ?_
      cases hd
      exact within
    · exact .refl
  · exact .refl

theorem runs_stageDeleteBody (record presence : Byte) (expected : Version) :
    s.Runs p (stageDeleteBody p record presence expected s).1 := by
  unfold stageDeleteBody
  split
  · exact runs_stageBody s p nofun
  · exact .refl

theorem runs_dropBody (record : Byte) : s.Runs p (dropBody p record s).1 := by
  unfold dropBody
  split
  · exact .refl
  · split
    · exact .refl
    · split
      · next opened =>
        simp only
        split
        · exact .single (.stages opened fun h => (PortState.bounded_staged h).filter _)
        · exact .refl
      · exact .refl

theorem runs_commitBody : s.Runs p (commitBody p s).1 := by
  unfold commitBody
  split
  · exact .refl
  · next gate =>
    split
    · next opened =>
      split
      · exact .refl
      · exact .head (.submits (StoreState.ready_of_writeGate gate) (.inr opened) PortState.bounded_staged)
          (.single (.freeze _))
    · exact .refl

theorem runs_abortBody : s.Runs p (abortBody p s).1 := by
  unfold abortBody
  split
  · exact .refl
  · split
    · exact .refl
    · next opened => exact .single (.discards opened rfl rfl rfl)
    · split
      · next e found => exact .single (.fails found)
      · exact .refl
    · exact .refl

theorem runs_leaseRequest (window : Byte) (body : WindowNo → State → State × ResultHolder)
    (h : ∀ w, s.Runs p (body w s).1) : s.Runs p (leaseRequest window body s).1 := by
  unfold leaseRequest
  split
  · exact .refl
  · split
    · exact .refl
    · exact h _

theorem runs_grantBody (wait : Bool) (w : WindowNo) (ticks : Nat) : s.Runs p (grantBody p wait w ticks s).1 := by
  unfold grantBody
  simp only
  split
  · next free => exact .single (.setLease fun h => h.grant free _)
  · next k held =>
    split
    · simp only
      split
      · exact .refl
      · exact State.runs_loadTimer w
    · next other =>
      split
      · exact .single (.setLease fun h => h.join held other)
      · exact .refl

theorem runs_leaseBody (window wait : Byte) : s.Runs p (leaseBody p window wait s).1 := by
  unfold leaseBody
  split
  · exact .refl
  · refine runs_leaseRequest s p window _ fun w => ?_
    split
    · exact .refl
    · split
      · exact runs_grantBody s p _ w _
      · exact .refl
      · exact .refl

theorem runs_renewBody (window : Byte) : s.Runs p (renewBody p window s).1 := by
  refine runs_leaseRequest s p window _ fun w => ?_
  split
  · exact .refl
  · split
    · split
      · simp only
        split
        · exact .refl
        · exact State.runs_loadTimer w
      · exact .refl
    · exact .refl

theorem runs_releaseBody (window : Byte) : s.Runs p (releaseBody p window s).1 := by
  refine runs_leaseRequest s p window _ fun w => ?_
  split
  · exact .refl
  · split
    · split
      · exact .refl
      · exact State.runs_passOn w
    · split
      · exact .single (.setLease fun h => h.leave p)
      · exact .refl

theorem runs_breakBody (window : Byte) : s.Runs p (breakBody p window s).1 := by
  refine runs_leaseRequest s p window _ fun w => ?_
  split
  · exact .refl
  · split
    · exact .refl
    · split
      · exact .refl
      · split
        · exact .refl
        · exact .head (.notify _ _) (State.runs_passOn w)

theorem State.runs_setWatch (a : AreaNo) (on : Bool) : s.Runs p (s.setWatch p a on).1 :=
  .single (.onPort (f := fun c => { c with watch := (s.port p).watch.set a on }) ⟨rfl, rfl, id⟩)

theorem runs_watchBody (area : Byte) : s.Runs p (watchBody p area s).1 := by
  unfold watchBody
  split
  · exact .refl
  · split
    · exact .refl
    · split
      · exact .refl
      · exact s.runs_setWatch p _ true

theorem runs_unwatchBody (area : Byte) : s.Runs p (unwatchBody p area s).1 := by
  unfold unwatchBody
  split
  · exact .refl
  · split
    · exact .refl
    · split
      · exact .refl
      · split
        · exact s.runs_setWatch p _ false
        · exact .refl

theorem runs_defineBody (window base size policy leaseTime : Byte) :
    s.Runs p (defineBody p window base size policy leaseTime s).1 := by
  unfold defineBody
  split
  · split
    · exact .refl
    · next gate =>
      split
      · exact .refl
      · next free =>
        split
        · exact .refl
        · exact .single (.submits (StoreState.ready_of_writeGate gate) (.inl (not_not.mp free)) fun _ => trivial)
  · exact .refl

theorem runs_clearBody (window : Byte) : s.Runs p (clearBody p window s).1 := by
  unfold clearBody
  split
  · exact .refl
  · split
    · exact .refl
    · next gate =>
      split
      · exact .refl
      · next free =>
        split
        · exact .refl
        · exact .single (.submits (StoreState.ready_of_writeGate gate) (.inl (not_not.mp free)) fun _ => trivial)

theorem runs_formatBody : s.Runs p (formatBody p s).1 := by
  unfold formatBody
  split
  · exact .refl
  · split
    · exact .refl
    · exact .single .formats

theorem State.runs_resetTransaction : s.Runs p (s.resetTransaction p) := by
  unfold State.resetTransaction
  split
  · exact .single (.onPort ⟨rfl, rfl, id⟩)
  · next opened => exact .single (.discards opened rfl rfl rfl)
  · split
    · next e found => exact .single (.fails found)
    · exact .refl
  · exact .refl

theorem State.runs_passOnAll : s.Runs p (s.passOnAll p) := by
  refine State.runs_foldl (fun u w => ?_) allWindows
  split
  · exact State.runs_passOn w
  · exact .refl

theorem PortState.keepsTxn_clearSession (c : PortState) : c.KeepsTxn c.clearSession :=
  ⟨rfl, rfl, fun _ => Nat.zero_le 16⟩

theorem portResetBody_eq :
    portResetBody p s
      = ((((s.resetTransaction p).leaveWaitLists p).passOnAll p).onPort p PortState.clearSession, plain .ok) := rfl

theorem runs_portResetBody : s.Runs p (portResetBody p s).1 := by
  rw [portResetBody_eq]
  have left := (s.runs_resetTransaction p).tail .leaveWaitLists
  exact (left.trans (State.runs_passOnAll _ p)).tail
    (.onPort (PortState.keepsTxn_clearSession _))

end

/-! ## Link events: a host takes notices away (R134) -/

/-- The notices of `d` are those of `c`, the delivered ones gone. -/
def LinkLeaves (c d : PortState) : Prop := LinkAndNotices c d ∧ d.notices <:+ c.notices

theorem LinkOnly.leaves {c d : PortState} (h : LinkOnly c d) : LinkLeaves c d := by
  refine ⟨h.andNotices, ?_⟩
  rw [h]

theorem LinkLeaves.trans {a b d : PortState} (h : LinkLeaves a b) (k : LinkLeaves b d) : LinkLeaves a d :=
  ⟨h.1.trans k.1, k.2.trans h.2⟩

theorem LinkLeaves.keepsTxn {c d : PortState} (h : LinkLeaves c d) : c.KeepsTxn d := by
  obtain ⟨same, left⟩ := h
  refine ⟨?_, ?_, left.length_le.trans⟩ <;> rw [same]

section
variable (s : State) (c : PortState)

theorem State.deliverNotice_leaves (goesOn : Bool) : LinkLeaves c (s.deliverNotice goesOn c) := by
  rcases s.deliverNotice_linkOnly c goesOn with h | h
  · exact h.leaves
  · exact LinkLeaves.trans (b := { c with notices := c.notices.drop 1 }) ⟨rfl, List.drop_suffix 1 _⟩ h.leaves

theorem State.hostAck_leaves : LinkLeaves c (s.hostAck c) := by
  have byte := (s.ackByte_linkOnly c).leaves
  have block := (s.deliverBlock_linkOnly c true).leaves
  have notice := s.deliverNotice_leaves c true
  have still : LinkLeaves c c := (LinkOnly.refl c).leaves
  unfold State.hostAck
  split
  · split
    · split
      · exact block
      · exact byte
    · split
      · exact block
      · exact byte
    · split
      · exact notice
      · exact byte
    · split
      · exact notice
      · exact byte
    · exact byte
    · exact byte
    · exact still
  · exact still
  · exact still

theorem State.linkNinth_leaves (x : Byte × Option Bool) : LinkLeaves c (s.linkNinth c x) := by
  unfold State.linkNinth
  split
  · exact (s.linkByte_linkOnly c x.1).leaves
  · split
    · exact s.hostAck_leaves c
    · exact LinkOnly.leaves rfl
    · exact (LinkOnly.refl c).leaves
  · exact (LinkOnly.refl c).leaves

theorem State.linkBits_leaves (bits : List Bool) : LinkLeaves c (s.linkBits bits c) := by
  unfold State.linkBits
  generalize ninths bits = l
  induction l generalizing c with
  | nil => exact (LinkOnly.refl c).leaves
  | cons x rest ih => exact (s.linkNinth_leaves c x).trans (ih (s.linkNinth c x))

/-- The bits of a frame that is opened for them, if none is open. -/
theorem State.frame_leaves (bits : List Bool) : LinkLeaves c (s.linkBits bits c.openFrame) :=
  c.openFrame_linkOnly.leaves.trans (s.linkBits_leaves _ bits)

theorem State.badFrameAt_leaves (bits : List Bool) : LinkLeaves c (s.badFrameAt bits c) := by
  have stop := (s.frame_leaves c bits).trans (PortState.linkStop_linkOnly _).leaves
  unfold State.badFrameAt
  simp only
  split
  · split
    · exact (LinkOnly.refl c).leaves
    all_goals exact stop
  · exact stop
  · exact stop

theorem State.timeoutAt_leaves (wave : List LinkLevels) : LinkLeaves c (s.timeoutAt wave c) := by
  unfold State.timeoutAt
  split
  · exact c.timeRunsOut_linkOnly.leaves
  · split
    · next bits _ => exact (s.frame_leaves c bits).trans (PortState.timeRunsOut_linkOnly _).leaves
    · exact (LinkOnly.refl c).leaves

end

/-! ## The commands -/

theorem runs_of_serve {p : Port} {n : Nat} {body : State → State × ResultHolder} {s t : State}
    (hb : ∀ u : State, u.Runs p (body u).1) (h : serve p n body s = .next t) : s.Runs p t := by
  unfold serve at h
  split at h
  · cases h
    exact .refl
  · cases h
    exact .head (.onPort (f := PortState.endGoodFrame n) ⟨rfl, rfl, id⟩)
      ((hb _).tail (.onPort (f := fun c => { c with holder := _ }) ⟨rfl, rfl, id⟩))

theorem runs_of_link {p : Port} {f : State → PortState → PortState} {s t : State}
    (hf : ∀ (u : State) c, LinkLeaves c (f u c))
    (h : (.next (s.atLink p f) : Host.Outcome State Fault Refusal) = .next t) : s.Runs p t := by
  cases h
  unfold State.atLink
  split
  · exact .refl
  · exact .single (.onPort (hf s _).keepsTxn)

/-- A command of a port brings acts at that port (R144 to R157). -/
theorem exec_runs {c : Instr} {p : Port} {s t : State} (hc : portOf c = some p) (h : exec c s = .next t) :
    s.Runs p t := by
  cases c with
  | status q =>
    cases hc
    exact runs_of_serve (body := fun s => (s, .result .ok (s.statusPayload p))) (fun _ => .refl) h
  | read q r => cases hc; exact runs_of_serve (fun u => runs_readBody u p r) h
  | scan q a b d => cases hc; exact runs_of_serve (fun u => runs_scanBody u p a b d) h
  | windows q => cases hc; exact runs_of_serve (fun u => runs_windowsBody u p) h
  | beginTxn q => cases hc; exact runs_of_serve (fun u => runs_beginBody u p) h
  | stageWrite q r e v d => cases hc; exact runs_of_serve (fun u => runs_stageWriteBody u p r e v d) h
  | stageDelete q r e v => cases hc; exact runs_of_serve (fun u => runs_stageDeleteBody u p r e v) h
  | dropEntry q r => cases hc; exact runs_of_serve (fun u => runs_dropBody u p r) h
  | commit q => cases hc; exact runs_of_serve (fun u => runs_commitBody u p) h
  | abort q => cases hc; exact runs_of_serve (fun u => runs_abortBody u p) h
  | lease q w x => cases hc; exact runs_of_serve (fun u => runs_leaseBody u p w x) h
  | renew q w => cases hc; exact runs_of_serve (fun u => runs_renewBody u p w) h
  | release q w => cases hc; exact runs_of_serve (fun u => runs_releaseBody u p w) h
  | breakLease q w => cases hc; exact runs_of_serve (fun u => runs_breakBody u p w) h
  | watch q a => cases hc; exact runs_of_serve (fun u => runs_watchBody u p a) h
  | unwatch q a => cases hc; exact runs_of_serve (fun u => runs_unwatchBody u p a) h
  | defineWindow q w b z x y => cases hc; exact runs_of_serve (fun u => runs_defineBody u p w b z x y) h
  | clearWindow q w => cases hc; exact runs_of_serve (fun u => runs_clearBody u p w) h
  | format q => cases hc; exact runs_of_serve (fun u => runs_formatBody u p) h
  | portReset q => cases hc; exact runs_of_serve (fun u => runs_portResetBody u p) h
  | badFrame q wave =>
    cases hc
    refine runs_of_link (fun u c => ?_) h
    split
    · exact u.badFrameAt_leaves c _
    · exact (LinkOnly.refl c).leaves
  | truncated q wave =>
    cases hc
    refine runs_of_link (fun u c => ?_) h
    split
    · exact (u.frame_leaves c _).trans (PortState.linkStart_linkOnly _).leaves
    · exact (LinkOnly.refl c).leaves
  | frameTimeout q wave => cases hc; exact runs_of_link (fun u c => u.timeoutAt_leaves c wave) h
  | badLeadByte q lead =>
    cases hc
    refine runs_of_link (fun u c => ?_) h
    split
    · exact (c.openFrame_linkOnly.trans (u.leadByte_linkOnly _ lead)).leaves
    · exact (LinkOnly.refl c).leaves
  | resultFrame q a => cases hc; exact runs_of_link (fun u c => (u.respond_linkOnly c _ _ a).leaves) h
  | scanBlockDelivered q g => cases hc; exact runs_of_link (fun u c => (u.deliverBlock_linkOnly c g).leaves) h
  | noticeFrame q a => cases hc; exact runs_of_link (fun u c => (u.respond_linkOnly c _ _ a).leaves) h
  | noticeEntryDelivered q g => cases hc; exact runs_of_link (fun u c => u.deliverNotice_leaves c g) h
  | deviceReset _ => cases hc
  | resetRelease _ _ _ => cases hc
  | mountEnd => cases hc
  | pfwAssert => cases hc
  | holdTakesEffect => cases hc
  | pfwDeassert => cases hc
  | leaseTick => cases hc
  | leaseExpiry _ => cases hc
  | jobChoice _ => cases hc
  | pageProgramVerdict _ => cases hc
  | pageEraseVerdict _ => cases hc
  | formatJobBegin _ => cases hc

/-- A tick brings acts, at whichever port one names (R105, R114). -/
theorem exec_leaseTick_runs {s t : State} (p : Port) (h : exec .leaseTick s = .next t) : s.Runs p t := by
  simp only [exec, execLeaseTick] at h
  split at h <;> obtain rfl := Host.Outcome.next.inj h
  · exact .refl
  · exact State.runs_tick

theorem exec_leaseExpiry_runs {s t : State} {w : WindowNo} (p : Port) (h : exec (.leaseExpiry w) s = .next t) :
    s.Runs p t := by
  simp only [exec, execLeaseExpiry] at h
  split at h <;> obtain rfl := Host.Outcome.next.inj h
  · exact State.runs_tick
  · exact .refl

end Sys2Proof.Machine
end

section
/-! SUPPORT. O52: the bounds of notice queues, staging lists and lease states, and the HOLD flag (R38, R96, R104, R126). -/

namespace Sys2Proof.Machine

/-- Port `d` is in bounds as port `c` is (R38, R126). -/
structure PortState.KeepsBounds (c d : PortState) : Prop where
  notices : c.notices.length ≤ 16 → d.notices.length ≤ 16
  staging : c.staging.Bounded → d.staging.Bounded

/-- Ports and leases are in bounds in `t` as in `s`, and the HOLD flag and the level of PFW stand. -/
structure State.KeepsBounds (s t : State) : Prop where
  port : ∀ p, (s.port p).KeepsBounds (t.port p)
  lease : ∀ w, (s.lease w).WellShaped → (t.lease w).WellShaped
  hold : t.hold = s.hold
  pfw : t.pfw = s.pfw

theorem PortState.KeepsBounds.refl (c : PortState) : c.KeepsBounds c := ⟨id, id⟩

theorem PortState.KeepsTxn.keepsBounds {c d : PortState} (h : c.KeepsTxn d) : c.KeepsBounds d :=
  ⟨h.notices, fun b => h.staging ▸ b⟩

/-- A port whose list is discarded is in bounds (R37, R38). -/
theorem PortState.keepsBounds_of_nil {c d : PortState} (notices : d.notices = c.notices) (staging : d.staging = .records []) :
    c.KeepsBounds d := ⟨fun h => notices ▸ h, fun _ => staging ▸ Staging.bounded_nil⟩

theorem State.KeepsBounds.refl (s : State) : s.KeepsBounds s := ⟨fun _ => .refl _, fun _ => id, rfl, rfl⟩

theorem State.KeepsBounds.trans {s t u : State} (h : s.KeepsBounds t) (k : t.KeepsBounds u) : s.KeepsBounds u where
  port p := ⟨(k.port p).notices ∘ (h.port p).notices, (k.port p).staging ∘ (h.port p).staging⟩
  lease w := k.lease w ∘ h.lease w
  hold := k.hold.trans h.hold
  pfw := k.pfw.trans h.pfw

/-- What changes neither ports nor leases nor pins keeps the bounds. -/
theorem State.KeepsBounds.of_same {s t : State} (ports : t.ports = s.ports) (leases : t.leases = s.leases)
    (hold : t.hold = s.hold) (pfw : t.pfw = s.pfw) : s.KeepsBounds t := by
  refine ⟨fun p => ?_, fun w => ?_, hold, pfw⟩
  · rw [State.port, State.port, ports]
    exact .refl _
  · rw [State.lease, State.lease, leases]
    exact id

/-- The same before what keeps the bounds. -/
theorem State.KeepsBounds.after {s t u : State} (h : t.KeepsBounds u) (ports : t.ports = s.ports)
    (leases : t.leases = s.leases) (hold : t.hold = s.hold) (pfw : t.pfw = s.pfw) : s.KeepsBounds u :=
  (State.KeepsBounds.of_same ports leases hold pfw).trans h

theorem State.KeepsBounds.foldl {α : Type} {f : State → α → State} (h : ∀ (u : State) a, u.KeepsBounds (f u a)) (l : List α)
    (s : State) : s.KeepsBounds (l.foldl f s) := by
  induction l generalizing s with
  | nil => exact .refl s
  | cons a rest ih => exact (h s a).trans (ih (f s a))

section
variable (s : State)

/-! ## The shared operations -/

theorem State.KeepsTxns.keepsBounds {s t : State} (h : s.KeepsTxns t) : s.KeepsBounds t :=
  ⟨fun p => (h.port p).keepsBounds, h.lease, h.hold, h.pfw⟩

theorem State.onPort_keepsBounds {p : Port} {f : PortState → PortState} (h : (s.port p).KeepsBounds (f (s.port p))) :
    s.KeepsBounds (s.onPort p f) := by
  refine ⟨fun q => ?_, fun _ => id, rfl, rfl⟩
  rw [State.port_onPort]
  split
  · next e =>
    subst e
    exact h
  · exact .refl _

theorem State.onPorts_keepsBounds {f : PortState → PortState} (h : ∀ c : PortState, c.KeepsBounds (f c)) :
    s.KeepsBounds (s.onPorts f) := by
  refine ⟨fun q => ?_, fun _ => id, rfl, rfl⟩
  rw [State.port_onPorts]
  exact h _

theorem State.notify_keepsBounds (p : Port) (b : NoticeBody) : s.KeepsBounds (s.notify p b) :=
  (s.notify_keepsTxns p b).keepsBounds

theorem State.notifyAll_keepsBounds (b : NoticeBody) : s.KeepsBounds (s.notifyAll b) :=
  (s.notifyAll_keepsTxns b).keepsBounds

theorem State.endFreeze_keepsBounds (p : Port) : s.KeepsBounds (s.endFreeze p) := by
  refine ⟨fun _ => .refl _, fun w h => ?_, rfl, rfl⟩
  rw [State.lease_endFreeze]
  split
  · next k held =>
    split
    · next thaws =>
      rw [Bool.and_eq_true, beq_iff_eq] at thaws
      exact h.rehold held thaws.1.symm
    · exact h
  · exact h

theorem State.failQueued_keepsBounds (e : QueueEntry) (r : FailReason) (record : Option HostRecord) (tell : Bool) :
    s.KeepsBounds (s.failQueued e r record tell) := by
  have failed : s.KeepsBounds (({ s with queue := s.queue.filter fun x => x.port != e.port } : State).onPort e.port
      (PortState.failCommit e.token r)) :=
    (State.onPort_keepsBounds _ (PortState.keepsBounds_of_nil rfl rfl)).after rfl rfl rfl rfl
  unfold State.failQueued
  cases tell
  · exact failed.trans (State.endFreeze_keepsBounds _ _)
  · exact (failed.trans (State.notify_keepsBounds _ _ _)).trans (State.endFreeze_keepsBounds _ _)

theorem State.failAllQueued_keepsBounds (r : FailReason) : s.KeepsBounds (s.failAllQueued r) :=
  .foldl (fun u e => u.failQueued_keepsBounds e r none true) s.queue s

/-- A store state, told to every port. -/
theorem State.tellStore_keepsBounds (st : StoreState) :
    s.KeepsBounds (({ s with store := st } : State).notifyAll (.storeState st)) :=
  (State.notifyAll_keepsBounds _ _).after rfl rfl rfl rfl

theorem State.enterReadOnly_keepsBounds (r : ReadOnlyReason) : s.KeepsBounds (s.enterReadOnly r) :=
  (s.tellStore_keepsBounds (.readOnly r)).trans (State.failAllQueued_keepsBounds _ .readOnly)

theorem PortState.formatAccepted_keepsBounds (c : PortState) : c.KeepsBounds c.formatAccepted := by
  unfold PortState.formatAccepted
  cases c.txn with
  | opened => exact PortState.keepsBounds_of_nil rfl rfl
  | none => exact ⟨id, id⟩
  | queued => exact ⟨id, id⟩
  | running => exact ⟨id, id⟩

theorem State.lease_acceptFormat (w : WindowNo) : s.acceptFormat.lease w = .free := Table.get_fill _ _

theorem State.acceptFormat_keepsBounds : s.KeepsBounds s.acceptFormat := by
  have told := (s.tellStore_keepsBounds .formatting).trans (State.failAllQueued_keepsBounds _ .aborted)
  refine (told.trans (State.onPorts_keepsBounds _ PortState.formatAccepted_keepsBounds)).trans
    ⟨fun _ => .refl _, fun w _ => ?_, rfl, rfl⟩
  rw [s.lease_acceptFormat]
  exact LeaseState.wellShaped_free

end

/-! ## The acts of the commands (R104, R126) -/

theorem State.Acts.keepsBounds {s t : State} {p : Port} (h : s.Acts p t) : s.KeepsBounds t := by
  cases h with
  | ports h => exact ⟨fun q => (h q).keepsBounds, fun _ => id, rfl, rfl⟩
  | leases h => exact ⟨fun _ => .refl _, h, rfl, rfl⟩
  | opens _ => exact s.onPort_keepsBounds (PortState.keepsBounds_of_nil rfl rfl)
  | stages _ bounded => exact s.onPort_keepsBounds ⟨id, bounded⟩
  | @submits st _ _ bounded =>
    refine (s.onPort_keepsBounds (p := p) (f := fun c => { c with
      txn := .queued, staging := st, tokenCounter := (s.port p).tokenCounter + 1 }) ⟨id, bounded⟩).trans
      (.of_same rfl rfl rfl rfl)
  | discards _ _ staging notices => exact s.onPort_keepsBounds (PortState.keepsBounds_of_nil notices staging)
  | fails _ => exact s.failQueued_keepsBounds _ _ _ _
  | formats => exact s.acceptFormat_keepsBounds

theorem State.Runs.keepsBounds {s t : State} {p : Port} (h : s.Runs p t) : s.KeepsBounds t := by
  induction h with
  | refl => exact .refl s
  | tail _ act ih => exact ih.trans act.keepsBounds

/-! ## The engine -/

section
variable (s : State)

theorem State.endJob_keepsBounds : s.KeepsBounds s.endJob := by
  have free : s.KeepsBounds { s with job := .idle, op := none } := .of_same rfl rfl rfl rfl
  unfold State.endJob
  simp only
  split
  · exact free.trans (State.enterReadOnly_keepsBounds _ .media)
  · exact free

theorem State.commitMediaFailure_keepsBounds (p : Port) (token : Token) :
    s.KeepsBounds (s.commitMediaFailure p token) := by
  have failed : s.KeepsBounds (s.dropPending.onPort p (PortState.failCommit token .media)) :=
    (State.onPort_keepsBounds _ (PortState.keepsBounds_of_nil rfl rfl)).after rfl rfl rfl rfl
  exact ((failed.trans (State.notify_keepsBounds _ p _)).trans (State.endFreeze_keepsBounds _ p)).trans
    (State.endJob_keepsBounds _)

theorem State.relocationMediaFailure_keepsBounds : s.KeepsBounds s.relocationMediaFailure :=
  s.dropPending.endJob_keepsBounds.after rfl rfl rfl rfl

theorem State.programNext_keepsBounds (run : ImageRun) {fail : State → State} (hf : ∀ u : State, u.KeepsBounds (fail u)) :
    s.KeepsBounds (s.programNext run fail) := by
  rcases s.programNext_cases run fail with h | ⟨-, -, h⟩ | ⟨i, g, -, -, -, h⟩ <;> rw [h]
  · exact .of_same rfl rfl rfl rfl
  · exact (hf _).after rfl rfl rfl rfl
  · exact .of_same rfl rfl rfl rfl

theorem State.commitNext_keepsBounds (run : ImageRun) (p : Port) (token : Token) :
    s.KeepsBounds (s.programNext run fun u => u.commitMediaFailure p token) :=
  s.programNext_keepsBounds run fun u => u.commitMediaFailure_keepsBounds p token

theorem State.relocationNext_keepsBounds (run : ImageRun) :
    s.KeepsBounds (s.programNext run State.relocationMediaFailure) :=
  s.programNext_keepsBounds run State.relocationMediaFailure_keepsBounds

theorem State.startCommit_keepsBounds (e : QueueEntry) : s.KeepsBounds (s.startCommit e) := by
  rw [State.startCommit_eq]
  split
  · exact s.enterReadOnly_keepsBounds .sequence
  · have begun : s.KeepsBounds (s.commitBegun e) := (State.onPort_keepsBounds _ ⟨id, id⟩).after rfl rfl rfl rfl
    exact begun.trans (State.commitNext_keepsBounds _ _ _ _)

theorem State.startRelocation_keepsBounds (e : CensusEntry) : s.KeepsBounds (s.startRelocation e) := by
  rw [State.startRelocation_eq]
  split
  · exact s.enterReadOnly_keepsBounds .sequence
  · exact (State.relocationNext_keepsBounds _ _).after rfl rfl rfl rfl

theorem State.issueErase_keepsBounds (g : PageNo) : s.KeepsBounds (s.issueErase g) := by
  rw [State.issueErase_changes]
  exact .of_same rfl rfl rfl rfl

theorem State.Reclaims.keepsBounds {s t : State} (h : s.Reclaims t) : s.KeepsBounds t := by
  cases h with
  | erase _ =>
    rw [State.startErase_changes]
    exact .of_same rfl rfl rfl rfl
  | relocate _ => exact s.startRelocation_keepsBounds _
  | nothing => exact .of_same rfl rfl rfl rfl
  | space => exact s.enterReadOnly_keepsBounds _

theorem State.TakesUp.keepsBounds {s t : State} {l : List QueueEntry} (h : State.TakesUp s l t) : s.KeepsBounds t := by
  induction h with
  | reclaims h => exact h.keepsBounds
  | starts _ => exact State.startCommit_keepsBounds _ _
  | fails r record _ ih => exact (State.failQueued_keepsBounds _ _ r record true).trans ih

/-! ### Commit points -/

theorem PortState.endAreaScan_keepsTxn (c : PortState) : c.KeepsTxn c.endAreaScan := by
  rw [PortState.endAreaScan_holder]
  exact ⟨rfl, rfl, id⟩

theorem State.sendChanged_keepsTxns (st : Staging) (p : Port) (q : Sequence) : s.KeepsTxns (s.sendChanged st p q) := by
  refine .foldl (fun u o => ?_) allPorts s
  split
  · exact .refl u
  · exact .foldl (fun v b => v.notify_keepsTxns o b) _ u

theorem State.sendLayoutChanged_keepsTxns (w : WindowNo) (reason : LayoutReason) (p : Port) (q : Sequence) :
    s.KeepsTxns (s.sendLayoutChanged w reason p q) := by
  refine .foldl (fun u o => ?_) allPorts s
  split
  · exact .refl u
  · exact u.notify_keepsTxns o _

theorem State.settleWatches_keepsTxns (w : WindowNo) (reason : LayoutReason) :
    s.KeepsTxns (s.settleWatches w reason) := by
  cases reason with
  | define => exact .refl s
  | clear => exact s.onPorts_keepsTxns fun _ => ⟨rfl, rfl, id⟩

theorem State.settleLease_keepsTxns (w : WindowNo) : s.KeepsTxns (s.settleLease w) := by
  unfold State.settleLease
  split
  · exact .refl s
  · split
    · exact (s.setLease_keepsTxns fun _ => LeaseState.wellShaped_free).trans (State.notify_keepsTxns _ _ _)
    · exact .refl s

/-- What a commit point announces leaves every transaction (R60, R121, R122). -/
theorem State.announce_keepsTxns (p : Port) (st : Staging) (run : ImageRun) : s.KeepsTxns (s.announce p st run) := by
  unfold State.announce
  split
  · obtain ⟨_, switched⟩ := s.switchWindows_changes run.images
    have windows : s.KeepsTxns (s.switchWindows run.images) := switched ▸ ⟨fun _ => .refl _, fun _ => id, rfl, rfl⟩
    exact (((windows.trans (State.settleWatches_keepsTxns _ _ _)).trans
      (State.onPorts_keepsTxns _ PortState.endAreaScan_keepsTxn)).trans
      (State.sendLayoutChanged_keepsTxns _ _ _ _ _)).trans (State.settleLease_keepsTxns _ _)
  · exact s.sendChanged_keepsTxns st p run.sequence

/-- The images of a completed run take effect, and the Census takes its entry (R59, R66). -/
theorem State.completed_keepsBounds (run : ImageRun) (pages : List PageNo) : s.KeepsBounds (s.completed run pages) := by
  obtain ⟨_, _, _, h⟩ := s.takeEffectAll_changes run.images pages
  unfold State.completed
  rw [h]
  exact .of_same rfl rfl rfl rfl

theorem State.commitPoint_keepsBounds (p : Port) (token : Token) (st : Staging) (run : ImageRun) :
    s.KeepsBounds (s.commitPoint p token st run) := by
  have done : s.KeepsBounds ((s.completed run run.verified).onPort p (PortState.completeCommit token run.sequence)) :=
    (s.completed_keepsBounds run run.verified).trans
      (State.onPort_keepsBounds _ (PortState.keepsBounds_of_nil rfl rfl))
  exact (((done.trans (State.notify_keepsBounds _ p _)).trans (State.announce_keepsTxns _ p st run).keepsBounds).trans
    (State.endFreeze_keepsBounds _ p)).trans (State.endJob_keepsBounds _)

theorem State.relocationPoint_keepsBounds (run : ImageRun) : s.KeepsBounds (s.relocationPoint run) :=
  (s.completed_keepsBounds run run.verified).trans (State.endJob_keepsBounds _)

/-! ### The format -/

/-- The end of a format: what it sets, and what it does to each port, whatever was noted (R168). -/
theorem State.formatEnd_clears (noted : List NotedErase) :
    ∃ store pages bad, s.formatEnd noted
      = { s with
          ports := s.ports.map fun c => c.formatEnded store
          store := store, pages := pages, badCount := bad, records := .fill 129 .unwritten, windows := .fill 16 none
          census := [], nextSequence := 1, pointer := 0, recovered := false, job := .idle, op := none } := by
  obtain ⟨pages, bad, settled⟩ := s.settleNoted_changes noted
  have two (f g : PortState → PortState) : (s.ports.map f).map g = s.ports.map fun c => g (f c) :=
    Table.ext_get fun p => by simp only [Table.get_map]
  unfold State.formatEnd
  simp only [settled, State.onPorts, State.notifyAll, two]
  exact ⟨_, pages, bad, rfl⟩

theorem PortState.formatEnded_keepsBounds (c : PortState) (store : StoreState) : c.KeepsBounds (c.formatEnded store) where
  notices h := appendNotice_length_le _ _ (c.endAreaScan_keepsTxn.notices h)
  staging _ := Staging.bounded_nil

theorem State.formatEnd_keepsBounds (noted : List NotedErase) : s.KeepsBounds (s.formatEnd noted) := by
  obtain ⟨store, _, _, h⟩ := s.formatEnd_clears noted
  rw [h]
  refine (State.onPorts_keepsBounds s fun c => c.formatEnded_keepsBounds store).trans (.of_same ?_ rfl rfl rfl)
  rfl

theorem State.inFormat_keepsBounds (step : FormatStep) (noted : List NotedErase) (g : PageNo) :
    s.KeepsBounds ((s.inFormat step noted).issueErase g) :=
  (State.issueErase_keepsBounds _ g).after rfl rfl rfl rfl

theorem State.Sweeps.keepsBounds {s t : State} {next : Nat} {epochPage : Option PageNo} {noted : List NotedErase}
    (h : s.Sweeps next epochPage noted t) : s.KeepsBounds t := by
  cases h with
  | erase _ => exact s.inFormat_keepsBounds _ noted _
  | eraseEpoch _ _ => exact s.inFormat_keepsBounds _ noted _
  | ends _ _ => exact s.formatEnd_keepsBounds noted

theorem State.AttemptsEpoch.keepsBounds {s t : State} {q : Sequence} {failures : Nat} {noted : List NotedErase}
    (h : s.AttemptsEpoch q failures noted t) : s.KeepsBounds t := by
  cases h with
  | givesUp h => exact h.keepsBounds
  | waits => exact .of_same rfl rfl rfl rfl
  | programs _ => exact .of_same rfl rfl rfl rfl
  | erases _ => exact .of_same rfl rfl rfl rfl
  | noPage h => exact h.keepsBounds.after rfl rfl rfl rfl

theorem State.formatNext_keepsBounds (step : FormatStep) (noted : List NotedErase) :
    s.KeepsBounds (s.formatNext step noted) := by
  cases step with
  | epoch q failures => exact (s.epochAttempt_attempts q failures noted).keepsBounds
  | sweep next epochPage => exact (s.sweep_sweeps next epochPage noted).keepsBounds
  | eraseEpoch g => exact s.inFormat_keepsBounds (.eraseEpoch g) noted g

theorem State.beginFormat_keepsBounds : s.KeepsBounds s.beginFormat := by
  unfold State.beginFormat
  split
  · exact (s.sweep_sweeps 0 none []).keepsBounds
  · exact (State.epochAttempt_attempts _ _ 0 []).keepsBounds.after rfl rfl rfl rfl

theorem State.settleErase_keepsBounds (g : PageNo) (v : EraseVerdict) : s.KeepsBounds (s.settleErase g v) := by
  cases v <;> exact .of_same rfl rfl rfl rfl

/-! ### The verdicts, the resumption and the mount -/

theorem State.afterPass_keepsBounds (g : PageNo) : s.KeepsBounds (s.afterPass g) := by
  unfold State.afterPass
  split
  · unfold State.commitPassed
    split
    · exact s.commitPoint_keepsBounds _ _ _ _
    · exact (State.commitNext_keepsBounds _ _ _ _).after rfl rfl rfl rfl
  · unfold State.relocationPassed
    split
    · exact s.relocationPoint_keepsBounds _
    · exact (State.relocationNext_keepsBounds _ _).after rfl rfl rfl rfl
  · exact (s.sweep_sweeps _ _ _).keepsBounds
  all_goals exact .refl s

theorem State.afterFail_keepsBounds : s.KeepsBounds s.afterFail := by
  unfold State.afterFail
  split
  · unfold State.commitFailed
    split
    · exact (State.commitNext_keepsBounds _ _ _ _).after rfl rfl rfl rfl
    · exact s.commitMediaFailure_keepsBounds _ _
  · unfold State.relocationFailed
    split
    · exact (State.relocationNext_keepsBounds _ _).after rfl rfl rfl rfl
    · exact s.relocationMediaFailure_keepsBounds
  · exact (s.epochAttempt_attempts _ _ _).keepsBounds
  all_goals exact .refl s

theorem State.sweepVerdict_keepsBounds (g : PageNo) (v : EraseVerdict) (epochPage : Option PageNo)
    (noted : List NotedErase) : s.KeepsBounds (s.sweepVerdict g v epochPage noted) := by
  unfold State.sweepVerdict
  split
  · exact (s.sweep_sweeps _ _ _).keepsBounds
  · exact (s.settleErase_keepsBounds g v).trans (State.sweep_sweeps _ _ _ _).keepsBounds

theorem State.afterErase_keepsBounds (g : PageNo) (v : EraseVerdict) : s.KeepsBounds (s.afterErase g v) := by
  have settled := s.settleErase_keepsBounds g v
  unfold State.afterErase
  split
  · exact settled.trans (State.endJob_keepsBounds _)
  · exact settled.trans (State.epochAttempt_attempts _ _ _ _).keepsBounds
  · exact s.sweepVerdict_keepsBounds g v _ _
  · exact settled.trans (State.formatEnd_keepsBounds _ _)
  all_goals exact .refl s

theorem State.resume_keepsBounds : s.KeepsBounds s.resume := by
  unfold State.resume
  split
  · exact .refl s
  · split
    · exact .refl s
    · exact .refl s
    · exact s.commitNext_keepsBounds _ _ _
    · exact s.relocationNext_keepsBounds _
    · exact s.issueErase_keepsBounds _
    · exact s.formatNext_keepsBounds _ _

theorem State.endMount_keepsBounds : s.KeepsBounds (s.endMount s.verdicts) := by
  obtain ⟨store, job, op, ends⟩ := s.endMount_ends
  obtain ⟨_, _, _, _, _, _, _, _, tables⟩ := s.remounted_changes
  rw [ends, tables]
  exact (s.tellStore_keepsBounds store).trans (.of_same rfl rfl rfl rfl)

end

/-! ## The commands -/

theorem PortState.keepsBounds_reset (c : PortState) (service : Bool) : c.KeepsBounds (.reset service) :=
  ⟨fun _ => Nat.zero_le 16, fun _ => Staging.bounded_nil⟩

/-- Device reset leaves ports, leases, queue and engine as Table 19 gives them (R82). -/
theorem exec_deviceReset_fields {cut : CutOff} {s t : State} (h : exec (.deviceReset cut) s = .next t) :
    (∀ p, t.port p = .reset (s.port p).service) ∧ (∀ w, t.lease w = .free) ∧ t.queue = [] ∧ t.job = .idle
      ∧ t.hold = false := by
  obtain rfl := Host.Outcome.next.inj ((exec_deviceReset_eq cut s).symm.trans h)
  exact ⟨fun _ => Table.get_map _ _ _, fun _ => Table.get_fill _ _, rfl, rfl, rfl⟩

theorem State.sampleStraps_keepsTxn (s : State) (p : Port) : (s.port p).KeepsTxn (s.sampleStraps.port p) := by
  rw [show s.sampleStraps.port p = { s.port p with service := s.straps.names p } from Table.get_build _ _]
  exact ⟨rfl, rfl, id⟩

/-- The release samples the straps and changes nothing else of ports and leases (R163). -/
theorem exec_resetRelease_fields {x y z : Bool} {s t : State} (h : exec (.resetRelease x y z) s = .next t) :
    (∀ p, (s.port p).KeepsTxn (t.port p)) ∧ t.leases = s.leases ∧ t.hold = s.hold ∧ t.pfw = s.pfw := by
  simp only [exec, execResetRelease] at h
  split at h <;> obtain rfl := Host.Outcome.next.inj h
  · exact ⟨State.sampleStraps_keepsTxn { s with straps := ⟨x, y, z⟩ }, rfl, rfl, rfl⟩
  · exact ⟨fun _ => .refl _, rfl, rfl, rfl⟩

/-- Every command keeps each port and each lease in bounds, whatever the others do (R38, R104, R126). -/
theorem exec_keepsBounds {c : Instr} {s t : State} (h : exec c s = .next t) :
    (∀ p, (s.port p).KeepsBounds (t.port p)) ∧ ∀ w, (s.lease w).WellShaped → (t.lease w).WellShaped := by
  have same : (∀ p, (s.port p).KeepsBounds (s.port p)) ∧ ∀ w, (s.lease w).WellShaped → (s.lease w).WellShaped :=
    ⟨fun _ => .refl _, fun _ => id⟩
  rcases leavesEngine_or c with (port | rfl | ⟨w, rfl⟩ | rfl | rfl) | ⟨x, y, z, rfl⟩ | ⟨cut, rfl⟩ | rfl | rfl | ⟨b, rfl⟩
    | ⟨v, rfl⟩ | ⟨v, rfl⟩ | ⟨b, rfl⟩
  · obtain ⟨p, hp⟩ := Option.isSome_iff_exists.mp port
    have kept := State.Runs.keepsBounds (exec_runs hp h)
    exact ⟨kept.port, kept.lease⟩
  · have kept := State.Runs.keepsBounds (exec_leaseTick_runs 0 h)
    exact ⟨kept.port, kept.lease⟩
  · have kept := State.Runs.keepsBounds (exec_leaseExpiry_runs 0 h)
    exact ⟨kept.port, kept.lease⟩
  · obtain rfl := Host.Outcome.next.inj h
    exact same
  · simp only [exec, execHoldTakesEffect] at h
    split at h <;> obtain rfl := Host.Outcome.next.inj h <;> exact same
  · obtain ⟨ports, leases, -, -⟩ := exec_resetRelease_fields h
    have lease (w : WindowNo) : t.lease w = s.lease w := congrArg (·.get w) leases
    exact ⟨fun p => (ports p).keepsBounds, fun w h => lease w ▸ h⟩
  · obtain ⟨ports, leases, -, -, -⟩ := exec_deviceReset_fields h
    exact ⟨fun p => ports p ▸ PortState.keepsBounds_reset _ _, fun w _ => leases w ▸ LeaseState.wellShaped_free⟩
  · rcases exec_mountEnd h with rfl | ⟨-, -, rfl⟩
    · exact same
    · exact ⟨s.endMount_keepsBounds.port, s.endMount_keepsBounds.lease⟩
  · obtain rfl := exec_pfwDeassert h
    have kept := State.resume_keepsBounds { s with pfw := false, hold := false }
    exact ⟨kept.port, kept.lease⟩
  · rcases exec_jobChoice h with rfl | ⟨-, -, -, rfl⟩
    · exact same
    · have kept := (State.takeUp_takesUp { s with pfw := s.pfw || b } s.queue).keepsBounds
      exact ⟨kept.port, kept.lease⟩
  · rcases exec_pageProgramVerdict h with rfl | ⟨g, i, -, ⟨-, rfl⟩ | ⟨mark, -, rfl⟩⟩
    · exact same
    · have kept := (s.programPassed g i).afterPass_keepsBounds g
      exact ⟨kept.port, kept.lease⟩
    · have kept := (s.programFailed g mark).afterFail_keepsBounds
      exact ⟨kept.port, kept.lease⟩
  · rcases exec_pageEraseVerdict h with rfl | ⟨g, -, rfl⟩
    · exact same
    · have kept := (s.eraseDone g v).afterErase_keepsBounds g v
      exact ⟨kept.port, kept.lease⟩
  · rcases exec_formatJobBegin h with rfl | ⟨-, -, -, rfl⟩
    · exact same
    · have kept := State.beginFormat_keepsBounds { s with pfw := s.pfw || b }
      exact ⟨kept.port, kept.lease⟩

/-! ## The HOLD flag (R96 to R98) -/

/-- With PFW asserted a mount goes on to no page operation (R97). -/
theorem State.endMount_op_of_pfw {s : State} (h : s.pfw = true) : (s.endMount s.verdicts).op = none := by
  cases he : epochPage (foundPages s.verdicts) with
  | none =>
    rw [State.endMount_of_no_epoch he]
    rfl
  | some e =>
    rw [State.endMount_of_epoch he, h]
    cases s.remounted.sweepTarget 0 (some e) <;> rfl

/-- A state whose flag and whose level of PFW stand, with no operation that was not in progress. -/
theorem State.HoldConsistent.of_same {s t : State} (hs : s.HoldConsistent) (hold : t.hold = s.hold)
    (pfw : s.pfw = true → t.pfw = true) (op : s.op = none → t.op = none) : t.HoldConsistent := fun h => by
  obtain ⟨asserted, idle⟩ := hs (hold ▸ h)
  exact ⟨pfw asserted, op idle⟩

/-- Where the flag is clear it stays clear. -/
theorem State.HoldConsistent.of_clear {s t : State} (hs : s.HoldConsistent) (hold : t.hold = s.hold)
    (active : s.pfw = false ∨ s.op ≠ none) : t.HoldConsistent := fun h => by
  obtain ⟨asserted, idle⟩ := hs (hold ▸ h)
  rcases active with deasserted | busy
  · exact absurd (deasserted.symm.trans asserted) Bool.false_ne_true
  · exact absurd idle busy

theorem State.HoldConsistent.of_runs {s t : State} {p : Port} (hs : s.HoldConsistent) (h : s.Runs p t)
    (op : t.op = s.op) : t.HoldConsistent :=
  hs.of_same h.keepsBounds.hold (fun h' => h.keepsBounds.pfw.trans h') op.trans

theorem exec_keepsHold {c : Instr} {s t : State} (hs : s.HoldConsistent) (h : exec c s = .next t) : t.HoldConsistent := by
  rcases leavesEngine_or c with quiet | ⟨x, y, z, rfl⟩ | ⟨cut, rfl⟩ | rfl | rfl | ⟨b, rfl⟩ | ⟨v, rfl⟩ | ⟨v, rfl⟩ | ⟨b, rfl⟩
  · have op := (exec_storeKept quiet h).op
    rcases quiet with port | rfl | ⟨w, rfl⟩ | rfl | rfl
    · obtain ⟨p, hp⟩ := Option.isSome_iff_exists.mp port
      exact hs.of_runs (exec_runs hp h) op
    · exact hs.of_runs (exec_leaseTick_runs 0 h) op
    · exact hs.of_runs (exec_leaseExpiry_runs 0 h) op
    · obtain rfl := Host.Outcome.next.inj h
      exact hs.of_same rfl (fun _ => rfl) id
    · simp only [exec, execHoldTakesEffect] at h
      split at h <;> obtain rfl := Host.Outcome.next.inj h
      · next due =>
        simp only [State.holdDue, Bool.and_eq_true, Option.isNone_iff_eq_none] at due
        obtain ⟨⟨⟨asserted, idle⟩, -⟩, -⟩ := due
        exact fun _ => ⟨asserted, idle⟩
      · exact hs
  · obtain ⟨-, -, hold, pfw⟩ := exec_resetRelease_fields h
    obtain ⟨same, -, -⟩ := exec_resetRelease h
    exact hs.of_same hold pfw.trans same.op.trans
  · obtain ⟨-, -, -, -, hold⟩ := exec_deviceReset_fields h
    exact fun h' => absurd (hold.symm.trans h') Bool.false_ne_true
  · rcases exec_mountEnd h with rfl | ⟨-, -, rfl⟩
    · exact hs
    · have kept := s.endMount_keepsBounds
      intro held
      obtain ⟨asserted, -⟩ := hs (kept.hold ▸ held)
      exact ⟨kept.pfw.trans asserted, State.endMount_op_of_pfw asserted⟩
  · obtain rfl := exec_pfwDeassert h
    have kept := State.resume_keepsBounds { s with pfw := false, hold := false }
    exact fun h' => absurd (kept.hold.symm.trans h') Bool.false_ne_true
  · by_cases free : s.FreeToChoose
    · obtain rfl := Host.Outcome.next.inj ((exec_jobChoice_of_free free rfl b).symm.trans h)
      have kept := (State.takeUp_takesUp { s with pfw := b } s.queue).keepsBounds
      exact hs.of_clear kept.hold (.inl free.2.2.2)
    · obtain rfl := Host.Outcome.next.inj ((exec_jobChoice_of_busy free b).symm.trans h)
      exact hs.of_same rfl (fun asserted => by simp [asserted]) id
  · rcases exec_pageProgramVerdict h with rfl | ⟨g, i, busy, ⟨-, rfl⟩ | ⟨mark, -, rfl⟩⟩
    · exact hs
    · exact hs.of_clear ((s.programPassed g i).afterPass_keepsBounds g).hold (.inr (busy ▸ nofun))
    · exact hs.of_clear (s.programFailed g mark).afterFail_keepsBounds.hold (.inr (busy ▸ nofun))
  · rcases exec_pageEraseVerdict h with rfl | ⟨g, busy, rfl⟩
    · exact hs
    · exact hs.of_clear ((s.eraseDone g v).afterErase_keepsBounds g v).hold (.inr (busy ▸ nofun))
  · by_cases free : s.mayFormat = true
    · obtain rfl := Host.Outcome.next.inj ((exec_formatJobBegin_of_free free b).symm.trans h)
      obtain ⟨-, -, -, deasserted⟩ := s.mayFormat_iff.mp free
      exact hs.of_clear (State.beginFormat_keepsBounds { s with pfw := b }).hold (.inl deasserted)
    · obtain rfl := Host.Outcome.next.inj ((exec_formatJobBegin_of_busy free b).symm.trans h)
      exact hs.of_same rfl (fun asserted => by simp [asserted]) id

/-- Settles O52: no command takes a port or a lease out of bounds, and the HOLD flag is set only while PFW keeps the engine
from issuing an operation. -/
theorem stepsKeepBounds : Obligations.StepsKeepBounds := by
  intro s t h
  rcases step_eq_exec h with rfl | ⟨c, rest, -, h⟩
  · exact ⟨id, id, id, id⟩
  · obtain ⟨ports, leases⟩ := exec_keepsBounds h
    exact ⟨fun b p => (ports p).notices (b p), fun b p => (ports p).staging (b p), fun b => exec_keepsHold (s := { s with pending := rest }) b h,
      fun b w => leases w (b w)⟩

end Sys2Proof.Machine
end

section
/-! SUPPORT. O54: the Commit Queue, read port by port (R37, R50, R55). -/

namespace Sys2Proof.Machine

/-! ## What stands of one port's commit -/

/-- The entries of port `p` in the Commit Queue. -/
def State.entriesOf (s : State) (p : Port) : List QueueEntry := s.queue.filter fun e => e.port == p

/-- The list that a COMMIT job programs for port `p`. -/
def Job.listOf (j : Job) (p : Port) : Option Staging :=
  match j with
  | .commit q _ st _ => if q = p then some st else none
  | .idle => none
  | .mount => none
  | .relocate _ _ => none
  | .erase _ => none
  | .format _ _ => none

/-- A port's transaction fits its entries in the queue and what the engine programs for it: one entry with its list when
QUEUED, the list in the job when RUNNING, neither otherwise (R37, R50, R55). -/
def PortState.TxnFits (c : PortState) (entries : List QueueEntry) (programmed : Option Staging) : Prop :=
  match c.txn with
  | .none | .opened => entries = [] ∧ programmed = none
  | .queued => (∃ e, entries = [e] ∧ c.staging = e.staging) ∧ programmed = none
  | .running => entries = [] ∧ programmed = some c.staging

/-- The invariant of the Commit Queue, port by port. -/
structure State.QueueFits (s : State) : Prop where
  port : ∀ p, (s.port p).TxnFits (s.entriesOf p) (s.job.listOf p)
  empty : s.store = .mounting ∨ s.store = .formatting → s.queue = []

section
variable {c d : PortState} {entries : List QueueEntry} {programmed : Option Staging}

theorem PortState.txnFits_of_free (h : c.txn = .none ∨ c.txn = .opened) :
    c.TxnFits entries programmed ↔ entries = [] ∧ programmed = none := by
  unfold PortState.TxnFits
  rcases h with h | h <;> rw [h]

theorem PortState.txnFits_of_queued (h : c.txn = .queued) :
    c.TxnFits entries programmed ↔ (∃ e, entries = [e] ∧ c.staging = e.staging) ∧ programmed = none := by
  unfold PortState.TxnFits
  rw [h]

theorem PortState.txnFits_of_running (h : c.txn = .running) :
    c.TxnFits entries programmed ↔ entries = [] ∧ programmed = some c.staging := by
  unfold PortState.TxnFits
  rw [h]

theorem PortState.TxnFits.congr (h : c.TxnFits entries programmed) (txn : d.txn = c.txn)
    (staging : d.staging = c.staging) : d.TxnFits entries programmed := by
  unfold PortState.TxnFits at *
  rwa [txn, staging]

/-- Only a QUEUED port has an entry (R50). -/
theorem PortState.TxnFits.queued_of_entry (h : c.TxnFits entries programmed) (some : entries ≠ []) :
    c.txn = .queued ∧ programmed = none := by
  cases txn : c.txn with
  | none => exact absurd ((txnFits_of_free (.inl txn)).mp h).1 some
  | opened => exact absurd ((txnFits_of_free (.inr txn)).mp h).1 some
  | queued => exact ⟨rfl, ((txnFits_of_queued txn).mp h).2⟩
  | running => exact absurd ((txnFits_of_running txn).mp h).1 some

/-- Only a RUNNING port has its list in the job (R55). -/
theorem PortState.TxnFits.running_of_list {st : Staging} (h : c.TxnFits entries (some st)) :
    c.txn = .running ∧ c.staging = st ∧ entries = [] := by
  cases txn : c.txn with
  | none => cases ((txnFits_of_free (.inl txn)).mp h).2
  | opened => cases ((txnFits_of_free (.inr txn)).mp h).2
  | queued => cases ((txnFits_of_queued txn).mp h).2
  | running =>
    obtain ⟨none, list⟩ := (txnFits_of_running txn).mp h
    exact ⟨rfl, (Option.some.inj list).symm, none⟩

/-- At most one entry of a port stands in the queue (R50). -/
theorem PortState.TxnFits.entries_le_one (h : c.TxnFits entries programmed) : entries.length ≤ 1 := by
  by_cases none : entries = []
  · simp [none]
  · obtain ⟨queued, -⟩ := h.queued_of_entry none
    obtain ⟨⟨e, one, -⟩, -⟩ := (txnFits_of_queued queued).mp h
    simp [one]

end

/-! ## The invariant in the terms of the statement -/

theorem Job.listOf_eq_some {j : Job} {p : Port} {st : Staging} :
    j.listOf p = some st ↔ ∃ token run, j = .commit p token st run := by
  cases j <;> simp [Job.listOf]

theorem mem_entriesOf {s : State} {p : Port} {e : QueueEntry} : e ∈ s.entriesOf p ↔ e ∈ s.queue ∧ e.port = p := by
  simp [State.entriesOf]

theorem State.count_ports (s : State) (p : Port) :
    (s.queue.map QueueEntry.port).count p = (s.entriesOf p).length := by
  rw [List.count, List.countP_map, State.entriesOf, List.countP_eq_length_filter]
  rfl

/-- The entry of a port is the only one where no port has two (R50). -/
theorem State.entriesOf_eq {s : State} (nodup : (s.queue.map QueueEntry.port).Nodup) {e : QueueEntry} (he : e ∈ s.queue) :
    s.entriesOf e.port = [e] := by
  have one : (s.entriesOf e.port).length = 1 := by
    rw [← State.count_ports]
    exact List.count_eq_one_of_mem nodup (List.mem_map_of_mem he)
  obtain ⟨x, hx⟩ := List.length_eq_one_iff.mp one
  have same : e ∈ s.entriesOf e.port := mem_entriesOf.mpr ⟨he, rfl⟩
  rw [hx] at same ⊢
  rw [List.mem_singleton.mp same]

theorem State.QueueConsistent.fits {s : State} (h : s.QueueConsistent) : s.QueueFits := by
  obtain ⟨-, nodup, queued, entry, running, list, empty⟩ := h
  have noEntry (p : Port) (other : (s.port p).txn ≠ .queued) : s.entriesOf p = [] := by
    refine List.eq_nil_iff_forall_not_mem.mpr fun e he => ?_
    obtain ⟨mem, rfl⟩ := mem_entriesOf.mp he
    exact other (queued e mem).1
  have noList (p : Port) (other : (s.port p).txn ≠ .running) : s.job.listOf p = none := by
    refine Option.eq_none_iff_forall_ne_some.mpr fun st hst => other ?_
    obtain ⟨token, run, hj⟩ := Job.listOf_eq_some.mp hst
    exact (running p).mpr ⟨token, st, run, hj⟩
  refine ⟨fun p => ?_, empty⟩
  cases txn : (s.port p).txn with
  | none =>
    exact (PortState.txnFits_of_free (.inl txn)).mpr ⟨noEntry p (txn ▸ nofun), noList p (txn ▸ nofun)⟩
  | opened =>
    exact (PortState.txnFits_of_free (.inr txn)).mpr ⟨noEntry p (txn ▸ nofun), noList p (txn ▸ nofun)⟩
  | queued =>
    obtain ⟨e, he, rfl⟩ := entry p txn
    exact (PortState.txnFits_of_queued txn).mpr ⟨⟨e, State.entriesOf_eq nodup he, (queued e he).2⟩, noList _ (txn ▸ nofun)⟩
  | running =>
    obtain ⟨token, st, run, hj⟩ := (running p).mp txn
    refine (PortState.txnFits_of_running txn).mpr ⟨noEntry p (txn ▸ nofun), ?_⟩
    rw [list p token st run hj]
    exact Job.listOf_eq_some.mpr ⟨token, run, hj⟩

theorem State.QueueFits.consistent {s : State} (h : s.QueueFits) : s.QueueConsistent := by
  have nodup : (s.queue.map QueueEntry.port).Nodup := by
    refine List.nodup_iff_count_le_one.mpr fun p => ?_
    rw [State.count_ports]
    exact (h.port p).entries_le_one
  have few : s.queue.length ≤ 4 := by
    have := nodup.length_le_card
    rwa [List.length_map, Fintype.card_fin] at this
  refine ⟨few, nodup, fun e he => ?_, fun p queued => ?_, fun p => ⟨fun running => ?_, ?_⟩, fun p token st run hj => ?_,
    h.empty⟩
  · have fits := h.port e.port
    rw [State.entriesOf_eq nodup he] at fits
    obtain ⟨queued, -⟩ := fits.queued_of_entry (List.cons_ne_nil e [])
    obtain ⟨⟨x, same, staging⟩, -⟩ := (PortState.txnFits_of_queued queued).mp fits
    obtain rfl := (List.cons.inj same).1
    exact ⟨queued, staging⟩
  · obtain ⟨⟨e, one, -⟩, -⟩ := (PortState.txnFits_of_queued queued).mp (h.port p)
    have he : e ∈ s.entriesOf p := one ▸ List.mem_singleton_self e
    exact ⟨e, mem_entriesOf.mp he⟩
  · obtain ⟨-, list⟩ := (PortState.txnFits_of_running running).mp (h.port p)
    obtain ⟨token, run, hj⟩ := Job.listOf_eq_some.mp list
    exact ⟨token, _, run, hj⟩
  · rintro ⟨token, st, run, hj⟩
    have fits := h.port p
    rw [Job.listOf_eq_some.mpr ⟨token, run, hj⟩] at fits
    exact fits.running_of_list.1
  · have fits := h.port p
    rw [Job.listOf_eq_some.mpr ⟨token, run, hj⟩] at fits
    exact fits.running_of_list.2.1

/-! ## What changes one port's commit, and what changes none -/

section
variable {s t : State}

/-- A change that leaves every transaction, the queue and what is programmed for each port. -/
theorem State.QueueFits.of_same (h : s.QueueFits) (ports : ∀ p, (s.port p).KeepsTxn (t.port p)) (queue : t.queue = s.queue)
    (job : ∀ p, t.job.listOf p = s.job.listOf p)
    (empty : t.store = .mounting ∨ t.store = .formatting → t.queue = []) : t.QueueFits := by
  refine ⟨fun p => ?_, empty⟩
  have fits := (h.port p).congr (ports p).txn (ports p).staging
  rwa [State.entriesOf, queue, job]

/-- A change of the commit of port `p` alone. -/
theorem State.QueueFits.of_port (h : s.QueueFits) (p : Port)
    (others : ∀ q, q ≠ p → (t.port q).txn = (s.port q).txn ∧ (t.port q).staging = (s.port q).staging
      ∧ t.entriesOf q = s.entriesOf q ∧ t.job.listOf q = s.job.listOf q)
    (mine : (t.port p).TxnFits (t.entriesOf p) (t.job.listOf p))
    (empty : t.store = .mounting ∨ t.store = .formatting → t.queue = []) : t.QueueFits := by
  refine ⟨fun q => ?_, empty⟩
  by_cases hq : q = p
  · exact hq ▸ mine
  · obtain ⟨txn, staging, entries, job⟩ := others q hq
    rw [entries, job]
    exact (h.port q).congr txn staging

/-- The entries of the ports after those of port `p` are gone. -/
theorem State.entriesOf_without {p : Port} (queue : t.queue = s.queue.filter fun e => e.port != p) (q : Port) :
    t.entriesOf q = if q = p then [] else s.entriesOf q := by
  rw [State.entriesOf, queue, List.filter_filter]
  split
  · next hq =>
    subst hq
    exact List.filter_eq_nil_iff.mpr fun e _ => by simp
  · next hq =>
    refine List.filter_congr fun e _ => ?_
    by_cases he : e.port = q
    · simp [he, hq]
    · simp [he]

/-- Entries may leave an empty queue. -/
theorem State.QueueFits.empty_of_subset (h : s.QueueFits) (queue : t.queue ⊆ s.queue) (store : t.store = s.store) :
    t.store = .mounting ∨ t.store = .formatting → t.queue = [] := fun closed =>
  List.subset_nil.mp (h.empty (store ▸ closed) ▸ queue)

/-- A commit on the queue ends without starting (R51, R53). -/
theorem State.QueueFits.failQueued (h : s.QueueFits) {e : QueueEntry} (he : e ∈ s.queue) (r : FailReason)
    (record : Option HostRecord) (tell : Bool) : (s.failQueued e r record tell).QueueFits := by
  obtain ⟨ports, leases, changes⟩ := s.failQueued_changes e r record tell
  have store : (s.failQueued e r record tell).store = s.store := by rw [changes]
  have queue : (s.failQueued e r record tell).queue = s.queue.filter fun x => x.port != e.port := by rw [changes]
  have job := s.failQueued_job e r record tell
  refine h.of_port e.port (fun q hq => ?_) ?_
    (h.empty_of_subset (s.failQueued_storeStep e r record tell).queue store)
  · rw [s.port_failQueued_ne e r record tell q hq, State.entriesOf_without queue, if_neg hq, job]
    exact ⟨rfl, rfl, rfl, rfl⟩
  · obtain ⟨-, list⟩ := (h.port e.port).queued_of_entry (List.ne_nil_of_mem (mem_entriesOf.mpr ⟨he, rfl⟩))
    rw [s.port_failQueued_self, State.entriesOf_without queue, if_pos rfl, job, list]
    exact (PortState.txnFits_of_free (.inl rfl)).mpr ⟨rfl, rfl⟩

/-- The others move up when the head of the queue fails (R51). -/
theorem State.QueueFits.queue_failQueued (h : s.QueueFits) {e : QueueEntry} {rest : List QueueEntry}
    (queue : s.queue = e :: rest) (r : FailReason) (record : Option HostRecord) (tell : Bool) :
    (s.failQueued e r record tell).queue = rest := by
  have nodup := h.consistent.2.1
  rw [queue, List.map_cons, List.nodup_cons] at nodup
  obtain ⟨_, _, changes⟩ := s.failQueued_changes e r record tell
  rw [changes, queue, List.filter_cons_of_neg (by simp)]
  refine List.filter_eq_self.mpr fun x hx => ?_
  have other : x.port ≠ e.port := fun same => nodup.1 (List.mem_map.mpr ⟨x, hx, same⟩)
  simpa using other

/-- The commits of the queue fail one after the other, and none is left (R51). -/
theorem State.QueueFits.failEach (h : s.QueueFits) (r : FailReason) {l : List QueueEntry} (queue : s.queue = l) :
    (s.failEach r l).QueueFits := by
  induction l generalizing s with
  | nil => exact h
  | cons e rest ih =>
    exact ih (h.failQueued (queue ▸ List.mem_cons_self) r none true) (h.queue_failQueued queue r none true)

/-- The store is told that it is READ_ONLY, and every queued commit fails (R51, R160). -/
theorem State.QueueFits.enterReadOnly (h : s.QueueFits) (r : ReadOnlyReason) : (s.enterReadOnly r).QueueFits := by
  have told : (({ s with store := .readOnly r } : State).notifyAll (.storeState (.readOnly r))).QueueFits :=
    h.of_same (State.notifyAll_keepsTxns { s with store := .readOnly r } _).port rfl (fun _ => rfl)
      (by rintro (h | h) <;> cases h)
  exact told.failEach .readOnly rfl

/-! ## The acts of the commands (R40 to R51, R118, R119, R164) -/

/-- The failures of some commits, in a store of another state. -/
theorem State.failEach_withStore (s : State) (store : StoreState) (r : FailReason) (l : List QueueEntry) :
    ({ s with store := store } : State).failEach r l = { s.failEach r l with store := store } := by
  induction l generalizing s with
  | nil => rfl
  | cons e rest ih => exact ih (s.failQueued e r none true)

/-- An OPEN transaction is discarded, any other left as it is (R164). -/
theorem PortState.TxnFits.formatAccepted {c : PortState} {entries : List QueueEntry} {programmed : Option Staging}
    (h : c.TxnFits entries programmed) : c.formatAccepted.TxnFits entries programmed := by
  unfold PortState.formatAccepted
  cases txn : c.txn with
  | opened =>
    rw [txnFits_of_free (.inr txn)] at h
    exact (txnFits_of_free (.inl rfl)).mpr h
  | none => exact h.congr txn.symm rfl
  | queued => exact h.congr txn.symm rfl
  | running => exact h.congr txn.symm rfl

theorem State.QueueFits.acceptFormat (h : s.QueueFits) : s.acceptFormat.QueueFits := by
  have told : (s.notifyAll (.storeState .formatting)).QueueFits :=
    h.of_same (s.notifyAll_keepsTxns _).port rfl (fun _ => rfl) h.empty
  have failed := told.failEach .aborted rfl
  have none : (s.acceptFormat).queue = [] := State.failAllQueued_queue _ .aborted
  have format : s.acceptFormat = { (({ (s.notifyAll (.storeState .formatting)).failEach .aborted s.queue with
      store := .formatting } : State).onPorts PortState.formatAccepted) with leases := .fill 16 .free } := by
    rw [← State.failEach_withStore]
    rfl
  refine ⟨fun p => ?_, fun _ => none⟩
  rw [format]
  change (State.port (State.onPorts _ PortState.formatAccepted) p).TxnFits _ _
  rw [State.port_onPorts]
  exact (failed.port p).formatAccepted

theorem State.queueEntry_mem {p : Port} {e : QueueEntry} (h : s.queueEntry p = some e) : e ∈ s.queue :=
  List.mem_of_find?_eq_some h

/-- A port whose transaction is NONE or OPEN takes one of these states, and nothing queued is touched. -/
theorem State.QueueFits.onFree (h : s.QueueFits) {p : Port} {f : PortState → PortState}
    (before : (s.port p).txn = .none ∨ (s.port p).txn = .opened)
    (after : (f (s.port p)).txn = .none ∨ (f (s.port p)).txn = .opened) : (s.onPort p f).QueueFits := by
  refine h.of_port p (fun q hq => ?_) ?_ h.empty
  · rw [State.port_onPort, if_neg hq]
    exact ⟨rfl, rfl, rfl, rfl⟩
  · rw [State.port_onPort, if_pos rfl]
    exact (PortState.txnFits_of_free after).mpr ((PortState.txnFits_of_free before).mp (h.port p))

/-- A submission joins the queue of a READY store as the one entry of its port (R46, R50). -/
theorem State.QueueFits.submit (h : s.QueueFits) {p : Port} {st : Staging} (ready : s.store = .ready)
    (free : (s.port p).txn = .none ∨ (s.port p).txn = .opened) : (s.submit p st).1.QueueFits := by
  obtain ⟨none, list⟩ := (PortState.txnFits_of_free free).mp (h.port p)
  have entries (q : Port) : (s.submit p st).1.entriesOf q
      = s.entriesOf q ++ if q = p then [⟨p, (s.port p).tokenCounter + 1, st⟩] else [] := by
    rw [State.entriesOf, State.submit_fst, List.filter_append]
    by_cases hq : p = q
    · simp [State.entriesOf, State.port, hq]
    · simp [State.entriesOf, hq, Ne.symm hq]
  have port (q : Port) : (s.submit p st).1.port q = if q = p then
      { s.port p with txn := .queued, staging := st, tokenCounter := (s.port p).tokenCounter + 1 } else s.port q := by
    rw [State.submit_fst]
    exact Table.get_set _ _ _ _
  refine h.of_port p (fun q hq => ?_) ?_ (by rw [State.submit_fst, ready]; rintro (h | h) <;> cases h)
  · rw [port, entries, if_neg hq, if_neg hq, List.append_nil]
    exact ⟨rfl, rfl, rfl, rfl⟩
  · rw [port, entries, if_pos rfl, if_pos rfl, none]
    exact (PortState.txnFits_of_queued rfl).mpr ⟨⟨_, rfl, rfl⟩, list⟩

theorem State.Acts.queueFits {p : Port} (act : s.Acts p t) (h : s.QueueFits) : t.QueueFits := by
  cases act with
  | ports kept => exact h.of_same kept rfl (fun _ => rfl) h.empty
  | leases _ => exact h.of_same (fun _ => .refl _) rfl (fun _ => rfl) h.empty
  | opens free => exact h.onFree (.inl free) (.inr rfl)
  | stages opened _ => exact h.onFree (.inr opened) (.inr opened)
  | submits ready free _ => exact h.submit ready free
  | discards opened txn _ _ => exact h.onFree (.inr opened) (.inl txn)
  | fails found => exact h.failQueued (State.queueEntry_mem found) _ _ _
  | formats => exact h.acceptFormat

theorem State.Runs.queueFits {p : Port} (runs : s.Runs p t) (h : s.QueueFits) : t.QueueFits := by
  induction runs with
  | refl => exact h
  | tail _ act ih => exact act.queueFits ih

end

end Sys2Proof.Machine
end

section
/-! SUPPORT. O54: what the engine makes of the Commit Queue (R50 to R60, R69 to R78, R164 to R168). -/

namespace Sys2Proof.Machine

section
variable {s t : State}

/-! ## The end of a job -/

theorem State.QueueFits.endJob (h : ({ s with job := .idle, op := none } : State).QueueFits) : s.endJob.QueueFits := by
  unfold State.endJob
  simp only
  split
  · exact h.enterReadOnly .media
  · exact h

/-- A job that programs no commit ends, or another such job takes its place. -/
theorem State.QueueFits.withJob (h : s.QueueFits) (before : ∀ p, s.job.listOf p = none) {job : Job} {op : Option PageOp}
    (after : ∀ p, job.listOf p = none) : ({ s with job := job, op := op } : State).QueueFits :=
  h.of_same (fun _ => .refl _) rfl (fun p => (after p).trans (before p).symm) h.empty

/-- The COMMIT job ends with the transaction of its port (R58, R60). -/
theorem State.QueueFits.endCommit (h : s.QueueFits) {p : Port} {token : Token} {st : Staging} {run : ImageRun}
    (job : s.job = .commit p token st run) (others : ∀ q, q ≠ p → (s.port q).KeepsTxn (t.port q))
    (mine : (t.port p).txn = .none) (queue : t.queue = s.queue) (store : t.store = s.store) : t.endJob.QueueFits := by
  have list (q : Port) : s.job.listOf q = if p = q then some st else none := by rw [job]; rfl
  have entries (q : Port) : t.entriesOf q = s.entriesOf q := by rw [State.entriesOf, queue, State.entriesOf]
  refine .endJob (h.of_port p (fun q hq => ?_) ?_ (h.empty_of_subset (t := t) (by simp [queue]) store))
  · exact ⟨(others q hq).txn, (others q hq).staging, entries q, by rw [list, if_neg (Ne.symm hq)]; rfl⟩
  · have fits := h.port p
    rw [list, if_pos rfl] at fits
    obtain ⟨-, -, none⟩ := fits.running_of_list
    exact (PortState.txnFits_of_free (.inl mine)).mpr ⟨(entries p).trans none, rfl⟩

theorem State.QueueFits.commitMediaFailure (h : s.QueueFits) {p : Port} {token : Token} {st : Staging} {run : ImageRun}
    (job : s.job = .commit p token st run) (token' : Token) : (s.commitMediaFailure p token').QueueFits := by
  refine h.endCommit job (fun q hq => ?_) ?_ rfl rfl
  · change (s.port q).KeepsTxn (State.port (State.notify _ p _) q)
    rw [State.port_notify, if_neg hq, State.port_onPort, if_neg hq]
    exact .refl _
  · change (State.port (State.notify _ p _) p).txn = .none
    rw [State.port_notify, if_pos rfl, State.port_onPort, if_pos rfl]
    rfl

theorem State.QueueFits.commitPoint (h : s.QueueFits) {p : Port} {token : Token} {st : Staging} {run : ImageRun}
    (job : s.job = .commit p token st run) (run' : ImageRun) : (s.commitPoint p token st run').QueueFits := by
  obtain ⟨_, _, _, taken⟩ := s.takeEffectAll_changes run'.images run'.verified
  unfold State.commitPoint
  rw [taken]
  simp only
  generalize hu : State.onPort _ p (PortState.completeCommit token run'.sequence) = u
  have port (q : Port) : u.port q = if q = p then (s.port p).completeCommit token run'.sequence else s.port q := by
    rw [← hu, State.port_onPort]
    split
    · next hq => rw [hq]; rfl
    · rfl
  have told := (u.notify_keepsTxns p (.commitDone token st.count run'.sequence)).trans
    (State.announce_keepsTxns _ p st run')
  obtain ⟨_, _, _, announced⟩ := (u.notify p (.commitDone token st.count run'.sequence)).announce_changes p st run'
  refine h.endCommit job (fun q hq => ?_) ?_ ?_ ?_
  · have kept := told.port q
    rwa [port, if_neg hq] at kept
  · have kept := (told.port p).txn
    rwa [port, if_pos rfl] at kept
  · rw [announced, ← hu]
    rfl
  · rw [announced, ← hu]
    rfl

theorem State.QueueFits.relocationMediaFailure (h : s.QueueFits) (free : ∀ p, s.job.listOf p = none) :
    s.relocationMediaFailure.QueueFits :=
  .endJob (h.of_same (fun _ => .refl _) rfl (fun p => (free p).symm) h.empty)

theorem State.QueueFits.relocationPoint (h : s.QueueFits) (free : ∀ p, s.job.listOf p = none) (run : ImageRun) :
    (s.relocationPoint run).QueueFits := by
  obtain ⟨_, _, _, taken⟩ := s.takeEffectAll_changes run.images run.verified
  unfold State.relocationPoint
  rw [taken]
  exact .endJob (h.of_same (fun _ => .refl _) rfl (fun p => (free p).symm) h.empty)

/-! ## The next program of a run -/

theorem State.QueueFits.programNext (h : s.QueueFits) (run : ImageRun) {fail : State → State}
    (hf : (fail { s with op := none }).QueueFits) : (s.programNext run fail).QueueFits := by
  rcases s.programNext_cases run fail with next | ⟨-, -, next⟩ | ⟨i, g, -, -, -, next⟩ <;> rw [next]
  · exact h.of_same (fun _ => .refl _) rfl (fun _ => rfl) h.empty
  · exact hf
  · exact h.of_same (fun _ => .refl _) rfl (fun _ => rfl) h.empty

theorem State.QueueFits.commitNext (h : s.QueueFits) {p : Port} {token : Token} {st : Staging} {run : ImageRun}
    (job : s.job = .commit p token st run) (next : ImageRun) (token' : Token) :
    (s.programNext next fun u => u.commitMediaFailure p token').QueueFits := by
  have suspended : ({ s with op := none } : State).QueueFits := h.of_same (fun _ => .refl _) rfl (fun _ => rfl) h.empty
  exact h.programNext next (suspended.commitMediaFailure job token')

theorem State.QueueFits.relocationNext (h : s.QueueFits) (free : ∀ p, s.job.listOf p = none) (run : ImageRun) :
    (s.programNext run State.relocationMediaFailure).QueueFits := by
  have suspended : ({ s with op := none } : State).QueueFits := h.of_same (fun _ => .refl _) rfl (fun _ => rfl) h.empty
  exact h.programNext run (suspended.relocationMediaFailure free)

/-- A COMMIT job goes on with the next program of another run of the same commit. -/
theorem State.QueueFits.commitGoesOn (h : s.QueueFits) {p : Port} {token : Token} {st : Staging} {run : ImageRun}
    (job : s.job = .commit p token st run) (next : ImageRun) :
    (({ s with job := .commit p token st next } : State).programNext next
      fun u => u.commitMediaFailure p token).QueueFits := by
  have same : ({ s with job := .commit p token st next } : State).QueueFits :=
    h.of_same (fun _ => .refl _) rfl (fun q => by rw [job]; rfl) h.empty
  exact same.commitNext rfl next token

theorem State.QueueFits.relocationGoesOn (h : s.QueueFits) (free : ∀ p, s.job.listOf p = none) (target : Sequence)
    (next : ImageRun) :
    (({ s with job := .relocate target next } : State).programNext next State.relocationMediaFailure).QueueFits :=
  (h.withJob free (job := .relocate target next) (op := s.op) fun _ => rfl).relocationNext (fun _ => rfl) next

/-! ## The job choice (R55, R69 to R75) -/

/-- A commit on the queue starts: its entry leaves and its port is RUNNING with its list in the job (R55). -/
theorem State.QueueFits.commitBegun (h : s.QueueFits) (free : ∀ p, s.job.listOf p = none) {e : QueueEntry}
    (he : e ∈ s.queue) : (s.commitBegun e).QueueFits := by
  have queue : (s.commitBegun e).queue = s.queue.filter fun x => x.port != e.port := rfl
  have list (q : Port) : (s.commitBegun e).job.listOf q = if e.port = q then some e.staging else none := rfl
  have port (q : Port) : (s.commitBegun e).port q
      = if q = e.port then { s.port q with txn := .running } else s.port q := State.port_onPort _ _ _ _
  refine h.of_port e.port (fun q hq => ?_) ?_ (h.empty_of_subset (queue ▸ List.filter_subset_self _) rfl)
  · rw [port, if_neg hq, State.entriesOf_without queue, if_neg hq, list, if_neg (Ne.symm hq), free]
    exact ⟨rfl, rfl, rfl, rfl⟩
  · have fits := h.port e.port
    rw [State.entriesOf_eq h.consistent.2.1 he] at fits
    obtain ⟨queued, -⟩ := fits.queued_of_entry (List.cons_ne_nil e [])
    obtain ⟨⟨x, same, staging⟩, -⟩ := (PortState.txnFits_of_queued queued).mp fits
    obtain rfl := (List.cons.inj same).1
    rw [port, if_pos rfl, State.entriesOf_without queue, if_pos rfl, list, if_pos rfl]
    exact (PortState.txnFits_of_running rfl).mpr ⟨rfl, congrArg some staging.symm⟩

theorem State.QueueFits.startCommit (h : s.QueueFits) (free : ∀ p, s.job.listOf p = none) {e : QueueEntry}
    (he : e ∈ s.queue) : (s.startCommit e).QueueFits := by
  rw [State.startCommit_eq]
  split
  · exact h.enterReadOnly .sequence
  · exact (h.commitBegun free he).commitNext rfl _ e.token

theorem State.QueueFits.startRelocation (h : s.QueueFits) (free : ∀ p, s.job.listOf p = none) (e : CensusEntry) :
    (s.startRelocation e).QueueFits := by
  rw [State.startRelocation_eq]
  split
  · exact h.enterReadOnly .sequence
  · have begun : (s.relocationBegun e).QueueFits :=
      h.of_same (fun _ => .refl _) rfl (fun p => (free p).symm) h.empty
    exact begun.relocationNext (fun _ => rfl) _

theorem State.QueueFits.reclaims (h : s.QueueFits) (free : ∀ p, s.job.listOf p = none) (reclaims : s.Reclaims t) :
    t.QueueFits := by
  cases reclaims with
  | erase _ =>
    rw [State.startErase_changes]
    exact h.withJob free fun _ => rfl
  | relocate _ => exact h.startRelocation free _
  | nothing => exact h.withJob free fun _ => rfl
  | space => exact h.enterReadOnly .space

theorem State.QueueFits.takesUp {l : List QueueEntry} (h : s.QueueFits) (free : ∀ p, s.job.listOf p = none)
    (queue : s.queue = l) (takes : State.TakesUp s l t) : t.QueueFits := by
  induction takes with
  | reclaims reclaims => exact h.reclaims free reclaims
  | starts _ => exact h.startCommit free (queue ▸ List.mem_cons_self)
  | @fails s t e rest r record _ ih =>
    exact ih (h.failQueued (queue ▸ List.mem_cons_self) r record true)
      (fun p => (s.failQueued_job e r record true) ▸ free p) (h.queue_failQueued queue r record true)

/-! ## The format (R164 to R168) -/

theorem State.QueueFits.issueErase (h : s.QueueFits) (g : PageNo) : (s.issueErase g).QueueFits := by
  rw [State.issueErase_changes]
  exact h.of_same (fun _ => .refl _) rfl (fun _ => rfl) h.empty

/-- A format ends with no commit queued or running, and discards every list (R168). -/
theorem State.QueueFits.formatEnd (empty : s.queue = []) (noted : List NotedErase) : (s.formatEnd noted).QueueFits := by
  obtain ⟨store, _, _, ended⟩ := s.formatEnd_clears noted
  have port (p : Port) : (s.formatEnd noted).port p = (s.port p).formatEnded store := by
    rw [ended]
    exact Table.get_map _ _ _
  have none : (s.formatEnd noted).queue = [] := by rw [ended, ← empty]
  refine ⟨fun p => ?_, fun _ => none⟩
  rw [port, State.entriesOf, none, (s.formatEnd_ended noted).job]
  exact (PortState.txnFits_of_free (.inl rfl)).mpr ⟨rfl, rfl⟩

theorem State.QueueFits.sweeps (h : s.QueueFits) (free : ∀ p, s.job.listOf p = none) (empty : s.queue = []) {next : Nat}
    {epochPage : Option PageNo} {noted : List NotedErase} (sweeps : s.Sweeps next epochPage noted t) : t.QueueFits := by
  have inFormat (step : FormatStep) : (s.inFormat step noted).QueueFits := h.withJob free fun _ => rfl
  cases sweeps with
  | erase _ => exact (inFormat _).issueErase _
  | eraseEpoch _ _ => exact (inFormat _).issueErase _
  | ends _ _ => exact .formatEnd empty noted

theorem State.QueueFits.attemptsEpoch (h : s.QueueFits) (free : ∀ p, s.job.listOf p = none) (empty : s.queue = [])
    {q : Sequence} {failures : Nat} {noted : List NotedErase} (attempts : s.AttemptsEpoch q failures noted t) :
    t.QueueFits := by
  have inFormat (step : FormatStep) (op : Option PageOp) :
      ({ s.inFormat step noted with op := op } : State).QueueFits := h.withJob free fun _ => rfl
  cases attempts with
  | givesUp sweeps => exact h.sweeps free empty sweeps
  | waits => exact inFormat _ _
  | programs _ => exact (inFormat (.epoch q failures) s.op).of_same (fun _ => .refl _) rfl (fun _ => rfl) h.empty
  | erases _ => exact inFormat _ _
  | noPage sweeps => exact (inFormat (.epoch q failures) s.op).sweeps (fun _ => rfl) empty sweeps

theorem State.QueueFits.formatNext (h : s.QueueFits) (free : ∀ p, s.job.listOf p = none) (empty : s.queue = [])
    (step : FormatStep) (noted : List NotedErase) : (s.formatNext step noted).QueueFits := by
  cases step with
  | epoch q failures => exact h.attemptsEpoch free empty (s.epochAttempt_attempts q failures noted)
  | sweep next epochPage => exact h.sweeps free empty (s.sweep_sweeps next epochPage noted)
  | eraseEpoch g => exact (h.withJob free (job := .format (.eraseEpoch g) noted) (op := s.op) fun _ => rfl).issueErase g

theorem State.QueueFits.beginFormat (h : s.QueueFits) (free : ∀ p, s.job.listOf p = none) (empty : s.queue = []) :
    s.beginFormat.QueueFits := by
  unfold State.beginFormat
  split
  · exact h.sweeps free empty (s.sweep_sweeps 0 none [])
  · have taken : ({ s with nextSequence := s.nextSequence + 1 } : State).QueueFits :=
      h.of_same (fun _ => .refl _) rfl (fun _ => rfl) h.empty
    exact taken.attemptsEpoch free empty (State.epochAttempt_attempts _ _ 0 [])

/-! ## The verdicts and the resumption -/

/-- Nothing is queued while a format runs (R164). -/
theorem State.QueueFits.empty_of_format (h : s.QueueFits) (hs : s.StoreConsistent) {step : FormatStep}
    {noted : List NotedErase} (job : s.job = .format step noted) : s.queue = [] :=
  h.empty (.inr (hs.2.2 step noted job))

theorem State.QueueFits.afterPass (h : s.QueueFits) (hs : s.StoreConsistent) (g : PageNo) : (s.afterPass g).QueueFits := by
  unfold State.afterPass
  split
  · next job =>
    unfold State.commitPassed
    split
    · exact h.commitPoint job _
    · exact h.commitGoesOn job _
  · next job =>
    unfold State.relocationPassed
    split
    · exact h.relocationPoint (fun _ => job ▸ rfl) _
    · exact h.relocationGoesOn (fun _ => job ▸ rfl) _ _
  · next job => exact h.sweeps (fun _ => job ▸ rfl) (h.empty_of_format hs job) (s.sweep_sweeps _ _ _)
  all_goals exact h

theorem State.QueueFits.afterFail (h : s.QueueFits) (hs : s.StoreConsistent) : s.afterFail.QueueFits := by
  unfold State.afterFail
  split
  · next job =>
    unfold State.commitFailed
    split
    · exact h.commitGoesOn job _
    · exact h.commitMediaFailure job _
  · next job =>
    unfold State.relocationFailed
    split
    · exact h.relocationGoesOn (fun _ => job ▸ rfl) _ _
    · exact h.relocationMediaFailure fun _ => job ▸ rfl
  · next job => exact h.attemptsEpoch (fun _ => job ▸ rfl) (h.empty_of_format hs job) (s.epochAttempt_attempts _ _ _)
  all_goals exact h

theorem State.QueueFits.settleErase (h : s.QueueFits) (g : PageNo) (v : EraseVerdict) : (s.settleErase g v).QueueFits := by
  cases v <;> exact h.of_same (fun _ => .refl _) rfl (fun _ => rfl) h.empty

theorem State.settleErase_job (s : State) (g : PageNo) (v : EraseVerdict) : (s.settleErase g v).job = s.job := by
  cases v <;> rfl

theorem State.QueueFits.afterErase (h : s.QueueFits) (hs : s.StoreConsistent) (g : PageNo) (v : EraseVerdict) :
    (s.afterErase g v).QueueFits := by
  have settled := h.settleErase g v
  have same := s.settleErase_job g v
  obtain ⟨-, queue⟩ := s.settleErase_storeStep g v
  unfold State.afterErase
  split
  · next job => exact .endJob (settled.withJob (fun _ => by rw [same, job]; rfl) fun _ => rfl)
  · next job =>
    exact settled.attemptsEpoch (fun _ => by rw [same, job]; rfl) (queue.trans (h.empty_of_format hs job))
      (State.epochAttempt_attempts _ _ _ _)
  · next job =>
    unfold State.sweepVerdict
    split
    · exact h.sweeps (fun _ => job ▸ rfl) (h.empty_of_format hs job) (s.sweep_sweeps _ _ _)
    · exact settled.sweeps (fun _ => by rw [same, job]; rfl) (queue.trans (h.empty_of_format hs job))
        (State.sweep_sweeps _ _ _ _)
  · next job => exact .formatEnd (queue.trans (h.empty_of_format hs job)) _
  all_goals exact h

theorem State.QueueFits.resume (h : s.QueueFits) (hs : s.StoreConsistent) : s.resume.QueueFits := by
  unfold State.resume
  split
  · exact h
  · split
    · exact h
    · exact h
    · next job => exact h.commitNext job _ _
    · next job => exact h.relocationNext (fun _ => job ▸ rfl) _
    · exact h.issueErase _
    · next job => exact h.formatNext (fun _ => job ▸ rfl) (h.empty_of_format hs job) _ _

/-! ## The end of a mount (R93) -/

theorem State.QueueFits.endMount (h : s.QueueFits) (free : ∀ p, s.job.listOf p = none) (empty : s.queue = []) :
    (s.endMount s.verdicts).QueueFits := by
  obtain ⟨_, _, _, _, _, _, _, _, tables⟩ := s.remounted_changes
  have mounted (store : StoreState) {job : Job} {op : Option PageOp} (after : ∀ p, job.listOf p = none) :
      (s.remounted.mountEnded store job op).QueueFits := by
    rw [tables]
    exact h.of_same (State.notifyAll_keepsTxns { s with store := store } _).port rfl
      (fun p => (after p).trans (free p).symm) fun _ => empty
  cases he : epochPage (foundPages s.verdicts) with
  | none =>
    rw [State.endMount_of_no_epoch he]
    exact mounted _ fun _ => rfl
  | some e =>
    rw [State.endMount_of_epoch he]
    cases s.remounted.sweepTarget 0 (some e) with
    | some g => exact mounted _ fun _ => rfl
    | none => exact mounted _ fun _ => rfl

end

/-! ## The commands -/

theorem exec_keepsQueue {c : Instr} {s t : State} (hs : s.StoreConsistent) (hq : s.QueueFits)
    (h : exec c s = .next t) : t.QueueFits := by
  have same {u : State} (ports : u.ports = s.ports) (queue : u.queue = s.queue) (job : u.job = s.job)
      (store : u.store = s.store) : u.QueueFits :=
    hq.of_same (fun p => by rw [State.port, State.port, ports]; exact .refl _) queue (fun _ => job ▸ rfl)
      (hq.empty_of_subset (by simp [queue]) store)
  rcases leavesEngine_or c with (port | rfl | ⟨w, rfl⟩ | rfl | rfl) | ⟨x, y, z, rfl⟩ | ⟨cut, rfl⟩ | rfl | rfl | ⟨b, rfl⟩
    | ⟨v, rfl⟩ | ⟨v, rfl⟩ | ⟨b, rfl⟩
  · obtain ⟨p, hp⟩ := Option.isSome_iff_exists.mp port
    exact State.Runs.queueFits (exec_runs hp h) hq
  · exact State.Runs.queueFits (exec_leaseTick_runs 0 h) hq
  · exact State.Runs.queueFits (exec_leaseExpiry_runs 0 h) hq
  · obtain rfl := Host.Outcome.next.inj h
    exact same rfl rfl rfl rfl
  · simp only [exec, execHoldTakesEffect] at h
    split at h <;> obtain rfl := Host.Outcome.next.inj h
    · exact same rfl rfl rfl rfl
    · exact hq
  · obtain ⟨ports, -, -, -⟩ := exec_resetRelease_fields h
    obtain ⟨-, queue, job⟩ := exec_resetRelease h
    cases inReset : s.inReset with
    | false =>
      have still : exec (.resetRelease x y z) s = .next s := by simp [exec, execResetRelease, inReset]
      obtain rfl := Host.Outcome.next.inj (still.symm.trans h)
      exact hq
    | true =>
      obtain ⟨store, idle⟩ := hs.1 inReset
      refine hq.of_same ports queue (fun p => ?_) fun _ => queue.trans (hq.empty (.inl store))
      rcases job with same | ⟨-, mounts⟩
      · rw [same]
      · rw [mounts, idle]
        rfl
  · obtain ⟨ports, -, queue, job, -⟩ := exec_deviceReset_fields h
    refine ⟨fun p => ?_, fun _ => queue⟩
    rw [ports, State.entriesOf, queue, job]
    exact (PortState.txnFits_of_free (.inl rfl)).mpr ⟨rfl, rfl⟩
  · rcases exec_mountEnd h with rfl | ⟨-, job, rfl⟩
    · exact hq
    · exact hq.endMount (fun _ => job ▸ rfl) (hq.empty (.inl (hs.2.1 job)))
  · obtain rfl := exec_pfwDeassert h
    exact State.QueueFits.resume (s := { s with pfw := false, hold := false }) (same rfl rfl rfl rfl) hs
  · rcases exec_jobChoice h with rfl | ⟨-, -, job, rfl⟩
    · exact same rfl rfl rfl rfl
    · exact State.QueueFits.takesUp (s := { s with pfw := s.pfw || b }) (same rfl rfl rfl rfl) (fun _ => job ▸ rfl) rfl
        (State.takeUp_takesUp _ s.queue)
  · rcases exec_pageProgramVerdict h with rfl | ⟨g, i, -, ⟨-, rfl⟩ | ⟨mark, -, rfl⟩⟩
    · exact hq
    · exact State.QueueFits.afterPass (s := s.programPassed g i) (same rfl rfl rfl rfl) hs g
    · exact State.QueueFits.afterFail (s := s.programFailed g mark) (same rfl rfl rfl rfl) hs
  · rcases exec_pageEraseVerdict h with rfl | ⟨g, -, rfl⟩
    · exact hq
    · exact State.QueueFits.afterErase (s := s.eraseDone g v) (same rfl rfl rfl rfl) hs g v
  · rcases exec_formatJobBegin h with rfl | ⟨-, store, job, rfl⟩
    · exact same rfl rfl rfl rfl
    · exact State.QueueFits.beginFormat (s := { s with pfw := s.pfw || b }) (same rfl rfl rfl rfl) (fun _ => job ▸ rfl)
        (hq.empty (.inr store))

/-- Settles O54: each act of a port moves its own commit, and each operation of the engine the commit that it takes up,
completes or gives up. -/
theorem stepsKeepCommitQueue : Obligations.StepsKeepCommitQueue := by
  intro s t hs hq h
  rcases step_eq_exec h with rfl | ⟨c, rest, -, h⟩
  · exact hq
  · exact (exec_keepsQueue (s := { s with pending := rest }) hs (State.QueueConsistent.fits hq) h).consistent

end Sys2Proof.Machine
end

section
/-!
SUPPORT. O11, O13, O14 and O15: the requests that open, shorten, submit and abandon a transaction, and a queued commit that
ends without starting.
-/

namespace Sys2Proof.Machine

/-! ## Requests behind the gate of the store state (Table 35) -/

section
variable {s : State} {p : Port} {n : Nat} {body : State → State × ResultHolder}

/-- Out of device reset a request's body acts on the state after its frame, and its result is the answer (R146, R149). -/
theorem serve_answers (hr : s.inReset = false) (p : Port) (n : Nat) (body : State → State × ResultHolder) :
    serve p n body s = .next ((body (s.endFrame p n)).1.answer p (body (s.endFrame p n)).2) := serve_eq s p n body hr

theorem State.port_endFrame (s : State) (p : Port) (n : Nat) (q : Port) :
    (s.endFrame p n).port q = if q = p then (s.port q).endGoodFrame n else s.port q := State.port_onPort _ _ _ _

theorem State.port_endFrame_self (s : State) (p : Port) (n : Nat) :
    (s.endFrame p n).port p = (s.port p).endGoodFrame n := by rw [State.port_endFrame, if_pos rfl]

/-- The frame of a request leaves every transaction state as it was. -/
theorem State.txn_endFrame (s : State) (p : Port) (n : Nat) (q : Port) :
    ((s.endFrame p n).port q).txn = (s.port q).txn := by
  rw [State.port_endFrame]
  split <;> rfl

/-- A request that is refused before the store state is looked at (R161). -/
theorem serve_of_badArg (hr : s.inReset = false) (hb : ∀ u, body u = (u, plain .badArg)) :
    serve p n body s = .next (s.refused p n .badArg) := serve_of_report hr (hb _)

/-- A request served in READY alone: what it does there, behind the gate (Table 35). -/
theorem serve_of_writeGate {good : State → State × ResultHolder} {t : State} (hr : s.inReset = false)
    (hb : ∀ u : State, body u = match u.store.writeGate with
      | some st => (u, plain st)
      | none => good u)
    (ready : s.store = .ready → (good (s.endFrame p n)).1.answer p (good (s.endFrame p n)).2 = t) :
    serve p n body s = .next (s.ifReady p n t) := by
  have store : (s.endFrame p n).store = s.store := rfl
  rw [serve_answers hr, hb, store, State.ifReady]
  cases hst : s.store with
  | ready => exact congrArg _ (ready hst)
  | mounting => rfl
  | formatting => rfl
  | readOnly _ => rfl

/-- A request served in READY and READ_ONLY: what it does there, behind the gate (Table 35). -/
theorem serve_of_readGate {good : State → State × ResultHolder} {t : State} (hr : s.inReset = false)
    (hb : ∀ u : State, body u = match u.store.readGate with
      | some st => (u, plain st)
      | none => good u)
    (served : (good (s.endFrame p n)).1.answer p (good (s.endFrame p n)).2 = t) :
    serve p n body s = .next (s.ifServed p n t) := by
  have store : (s.endFrame p n).store = s.store := rfl
  rw [serve_answers hr, hb, store, State.ifServed]
  cases s.store with
  | ready => exact congrArg _ served
  | mounting => rfl
  | formatting => rfl
  | readOnly _ => exact congrArg _ served

end

/-- A filter by inequality, as the model and as the statements write it. -/
theorem filter_bne {α β : Type} [DecidableEq β] (f : α → β) (b : β) (l : List α) :
    (l.filter fun x => f x != b) = l.filter fun x => f x ≠ b :=
  List.filter_congr fun x _ => by by_cases same : f x = b <;> simp [same]

/-! ## A queued commit that ends without starting (R51, R53) -/

/-- Settles O15: the entry leaves the queue, its port fails, and its freeze ends. -/
theorem queuedCommitFails : Obligations.QueuedCommitFails := by
  intro s e reason record tell
  rw [← filter_bne QueueEntry.port]
  unfold State.failQueued
  cases tell <;> simp only [State.endFreeze_eq, State.notify, State.onPort, Table.set_set, Table.get_set_self] <;> rfl

/-! ## BEGIN and ABORT (R40, R48) -/

/-- Settles O11: the checks of BEGIN and ABORT in the order of their bodies, then the branch of the transaction state. -/
theorem beginAndAbort : Obligations.BeginAndAbort := by
  intro p s hr
  refine ⟨serve_of_writeGate hr (fun _ => rfl) fun _ => ?_, fun queued => serve_of_readGate hr (fun _ => rfl) ?_⟩
  · simp only [State.txn_endFrame]
    split
    · rfl
    · rfl
  · simp only [State.txn_endFrame]
    cases state : (s.port p).txn with
    | none => rfl
    | opened => rfl
    | running => rfl
    | queued =>
      obtain ⟨e, he, hp⟩ := queued state
      have found : (s.endFrame p 2).queueEntry p = s.queue.find? fun e => e.port = p := rfl
      simp only [found]
      cases entry : s.queue.find? fun e => e.port = p with
      | some _ => rfl
      | none => exact absurd (List.find?_eq_none.mp entry e he) (by simp [hp])

/-! ## DROP and COMMIT (R45 to R47, R112) -/

/-- The list of an OPEN transaction, after the frame of the request (R38). -/
theorem State.staged_endFrame {s : State} {p : Port} {es : List StagedEntry} (n : Nat)
    (list : (s.port p).staging = .records es) : ((s.endFrame p n).port p).staged = es := by
  rw [State.port_endFrame_self]
  unfold PortState.staged PortState.endGoodFrame
  rw [list]

/-- Settles O13: the checks of DROP in the order of its body; a COMMIT finds the emptied list empty. -/
theorem dropRemovesEntry : Obligations.DropRemovesEntry := by
  intro p s hr
  refine ⟨fun b hb => serve_of_badArg hr fun u => by simp only [dropBody, recordArg_of_large hb], fun r es list =>
    ⟨?_, fun ready opened empty => ?_⟩⟩
  · refine serve_of_readGate hr (fun u => by simp only [dropBody, recordArg_byteOf]; rfl) ?_
    simp only [State.txn_endFrame]
    by_cases opened : (s.port p).txn = .opened
    · rw [if_pos opened, if_neg (not_not.mpr opened), State.staged_endFrame 3 (list opened),
        ← filter_bne StagedEntry.record]
      by_cases there : ∃ x ∈ es, x.record = r
      · rw [if_pos there, if_pos ((holdsRecord_iff es r).mpr there)]
        rfl
      · rw [if_neg there, if_neg (mt (holdsRecord_iff es r).mp there)]
        rfl
    · rw [if_neg opened, if_pos opened]
      rfl
  · have staged := State.staged_endFrame 2 (list opened)
    have served : exec (.commit p) s = .next (s.ifReady p 2 (s.refused p 2 .empty)) := by
      refine serve_of_writeGate hr (fun _ => rfl) fun _ => ?_
      rw [if_pos ((s.txn_endFrame p 2 p).trans opened), if_pos (staged.trans empty)]
      rfl
    rw [served, State.ifReady, ready]

/-- A list of record entries touches a window that is defined and covers one of them (R101, R109). -/
theorem Staging.touches_records (l : Layout) (w : WindowNo) (es : List StagedEntry) :
    (Staging.records es).touches l w = true
      ↔ ∃ d, l.get w = some d ∧ ∃ e ∈ es, d.base ≤ e.record.val ∧ e.record.val < d.base + d.size := by
  unfold Staging.touches Layout.covers WindowDef.covers
  cases l.get w with
  | none => simp
  | some d => simp

/-- Every window that port `p` holds and that covers an entry of the list is frozen, its timer as it stands (R112). -/
def State.leasesFrozen (s : State) (p : Port) (es : List StagedEntry) : Table LeaseState 16 :=
  Table.build 16 fun w =>
    match (s.lease w).held, s.windows.get w with
    | some h, some d =>
      if h.port = p ∧ ∃ e ∈ es, d.base ≤ e.record.val ∧ e.record.val < d.base + d.size then
        ⟨some ⟨p, h.timer, true⟩, (s.lease w).waiters⟩
      else s.lease w
    | _, _ => s.lease w

theorem State.freeze_eq (s : State) (p : Port) (es : List StagedEntry) :
    s.freeze p (.records es) = { s with leases := s.leasesFrozen p es } := by
  have leases : (s.freeze p (.records es)).leases = s.leasesFrozen p es := by
    refine Table.ext_get fun w => (s.lease_freeze p (.records es) w).trans ?_
    have touches := Staging.touches_records s.windows w es
    rw [State.leasesFrozen, Table.get_build]
    cases held : (s.lease w).held with
    | none => rfl
    | some h =>
      cases window : s.windows.get w with
      | none => simp [window] at touches; simp [touches]
      | some d =>
        simp only [window, Option.some.injEq, exists_eq_left'] at touches
        obtain ⟨q, timer, frozen⟩ := h
        by_cases mine : q = p
        · subst mine
          simp [touches]
        · simp [mine]
  rw [← leases]
  rfl

/-- The submission of the list that the port has staged (R47). -/
theorem State.submit_of_staging {s : State} {p : Port} {st : Staging} (list : (s.port p).staging = st) :
    (s.submit p st).1
      = { s.onPort p fun c => { c with txn := .queued, tokenCounter := (s.port p).tokenCounter + 1 } with
          queue := s.queue ++ [⟨p, (s.port p).tokenCounter + 1, st⟩] } := by
  rw [← list]
  rfl

/-- Settles O14: the checks of COMMIT in the order of its body, then the submission and the freeze. -/
theorem commitSubmits : Obligations.CommitSubmits := by
  intro p es s hr list
  refine serve_of_writeGate hr (fun _ => rfl) fun _ => ?_
  simp only [State.txn_endFrame]
  by_cases opened : (s.port p).txn = .opened
  · rw [if_pos opened, if_neg (not_not.mpr opened), State.staged_endFrame 2 (list opened)]
    by_cases empty : es = []
    · rw [if_pos empty, if_pos empty]
      rfl
    · rw [if_neg empty, if_neg empty]
      have staging : ((s.endFrame p 2).port p).staging = .records es := by
        rw [State.port_endFrame_self]
        exact list opened
      have token : ((s.endFrame p 2).port p).tokenCounter = (s.port p).tokenCounter := by
        rw [State.port_endFrame_self]
        rfl
      simp only [State.freeze_eq, State.submit_of_staging staging, State.submit_snd, token]
      rfl
  · rw [if_neg opened, if_pos opened]
    rfl

end Sys2Proof.Machine
end

section
/-!
SUPPORT. O12 and O42: the checks of a staging request in their order, and those of a commit's validation.
-/

namespace Sys2Proof.Machine

/-! ## STAGE_WRITE and STAGE_DELETE (R41 to R44) -/

/-- The presence byte of an expected version (R171). -/
theorem expectedArg_eq (presence : Byte) (version : Version) :
    expectedArg presence version
      = if 1 < presence.toNat then none else some (if presence = 0x00 then none else some version) := by
  have zero : presence = 0x00 ↔ presence.toNat = 0 := by bv_omega
  have one : presence = 0x01 ↔ presence.toNat = 1 := by bv_omega
  unfold expectedArg
  simp only [zero, one]
  by_cases h0 : presence.toNat = 0
  · rw [if_pos h0, if_neg (by omega), if_pos h0]
  · rw [if_neg h0, if_neg h0]
    by_cases h1 : presence.toNat = 1
    · rw [if_pos h1, if_neg (by omega)]
    · rw [if_neg h1, if_pos (by omega)]

theorem State.stagePolicy_eq (s : State) (p : Port) (r : HostRecord) : s.stagePolicy p r = s.stagingRefusal p r := by
  unfold State.stagePolicy State.stagingRefusal
  cases policyOf s.windows (areaOf s.windows r) with
  | openWrite => rfl
  | frozen => rfl
  | leased _ => cases windowOfArea (areaOf s.windows r) <;> rfl

/-- The staging of an entry whose arguments are good, as one outcome (R41 to R44). -/
theorem serve_stageBody {s : State} {p : Port} {n : Nat} {body : State → State × ResultHolder} {e : StagedEntry}
    {es : List StagedEntry} (hr : s.inReset = false) (hb : ∀ u, body u = stageBody p e u)
    (list : (s.port p).txn = .opened → (s.port p).staging = .records es) :
    serve p n body s = .next (s.stagingOutcome p n e es) := by
  refine serve_of_writeGate hr (fun u => (hb u).trans rfl) fun _ => ?_
  simp only [State.txn_endFrame]
  by_cases opened : (s.port p).txn = .opened
  · have refusal : (s.endFrame p n).stagingRefusal p e.record = s.stagingRefusal p e.record := rfl
    rw [if_pos opened, if_neg (not_not.mpr opened), State.stagePolicy_eq, refusal, State.staged_endFrame n (list opened)]
    cases s.stagingRefusal p e.record with
    | some status => rfl
    | none =>
      by_cases there : ∃ x ∈ es, x.record = e.record
      · have holds := (holdsRecord_iff es e.record).mpr there
        have room : ¬(holdsRecord es e.record = false ∧ Config.stageLimit ≤ es.length) := by simp [holds]
        simp only [if_neg room, if_pos there, stageInto, if_pos holds]
        rfl
      · have holds : holdsRecord es e.record = false := by
          simpa using mt (holdsRecord_iff es e.record).mp there
        by_cases full : Config.stageLimit ≤ es.length
        · simp only [if_neg there, holds, full, and_self, if_true]
          exact (if_pos full).symm
        · simp only [if_neg there, holds, full, and_false, if_false, stageInto, Bool.false_eq_true]
          exact (if_neg full).symm
  · rw [if_neg opened, if_pos opened]
    rfl

/-- Settles O12: the checks of the arguments, then those of the staging. -/
theorem stagingBuildsList : Obligations.StagingBuildsList := by
  intro p presence version s hr
  refine ⟨fun b data bad => serve_of_badArg hr fun u => ?_, fun b bad => serve_of_badArg hr fun u => ?_,
    fun r es good list => ⟨fun data few => serve_stageBody hr (fun u => ?_) list, serve_stageBody hr (fun u => ?_) list⟩⟩
  · rw [stageWriteBody, expectedArg_eq]
    rcases bad with large | undefined | long
    · rw [recordArg_of_large large]
    · rw [if_pos undefined]
      cases recordArg b <;> rfl
    · have many : ¬data.length ≤ Config.dataLimit := not_le.mpr long
      simp only [if_neg many]
      split <;> rfl
  · rw [stageDeleteBody, expectedArg_eq]
    rcases bad with large | undefined
    · rw [recordArg_of_large large]
    · rw [if_pos undefined]
      cases recordArg b <;> rfl
  · rw [stageWriteBody, recordArg_byteOf, expectedArg_eq, if_neg (by omega)]
    exact if_pos few
  · rw [stageDeleteBody, recordArg_byteOf, expectedArg_eq, if_neg (by omega)]

/-! ## Validation (R52, R120) -/

/-- The first failure among record entries, in staging order (R52). -/
theorem State.validateEntries_eq (s : State) (p : Port) (es : List StagedEntry) :
    s.validateEntries p es = es.findSome? (s.validateEntry p) := by
  induction es with
  | nil => rfl
  | cons e rest ih =>
    rw [State.validateEntries, List.findSome?_cons, ih]
    cases s.validateEntry p e <;> rfl

/-- Settles O42: the branches of validation, entry by entry, and window by window. -/
theorem validationFindsFirstFailure : Obligations.ValidationFindsFirstFailure := by
  intro s p token
  refine ⟨fun es => (s.validateEntries_eq p es).trans (congrArg (es.findSome? ·) (funext fun x => ?_)), fun w =>
    ⟨fun d => ?_, ?_⟩⟩
  · simp only [State.validateEntry]
    cases policyOf s.windows (areaOf s.windows x.record) with
    | openWrite => cases x.expected <;> rfl
    | frozen => rfl
    | leased _ => cases windowOfArea (areaOf s.windows x.record) <;> cases x.expected <;> rfl
  · simp only [State.validate, State.validateNamed]
    refine if_congr Iff.rfl rfl ?_
    rcases Option.eq_none_or_eq_some (s.windows.get w) with undefined | ⟨old, window⟩
    · simp [undefined]
    · simp [window]
  · simp only [State.validate, State.validateNamed]
    rcases Option.eq_none_or_eq_some (s.windows.get w) with undefined | ⟨old, window⟩
    · simp [undefined]
    · simp [window]

end Sys2Proof.Machine
end

section
/-!
SUPPORT. O24: an accepted FORMAT, at the store and at each port.
-/

namespace Sys2Proof.Machine

/-- The store is FORMATTING, and every port has its STORE_STATE notice (R164). -/
def State.formatTold (s : State) : State := ({ s with store := .formatting }).notifyAll (.storeState .formatting)

theorem State.port_formatTold (s : State) (q : Port) :
    s.formatTold.port q = { s.port q with notices := appendNotice (.storeState .formatting) (s.port q).notices } :=
  State.port_notifyAll ..

theorem State.acceptFormat_formatTold (s : State) :
    s.acceptFormat
      = { (s.formatTold.failAllQueued .aborted).onPorts PortState.formatAccepted with leases := .fill 16 .free } := rfl

/-- An accepted FORMAT leaves no queue and no lease, and a store in FORMATTING; beside these it changes only ports (R164). -/
theorem State.acceptFormat_eq (s : State) :
    s.acceptFormat
      = { s with store := .formatting, queue := [], leases := .fill 16 .free, ports := s.acceptFormat.ports } := by
  obtain ⟨ports, leases, queue, failed⟩ := s.formatTold.failAllQueued_changes .aborted
  have empty := s.formatTold.failAllQueued_queue .aborted
  rw [failed] at empty
  rw [State.acceptFormat_formatTold, failed]
  cases (show queue = [] from empty)
  rfl

/-- What an accepted FORMAT does at a port: the notice to every port, then its queued commit, if any, then the rest of its
transaction and its watch set (R164). -/
theorem State.port_acceptFormat (s : State) (nodup : (s.queue.map QueueEntry.port).Nodup) (q : Port) :
    s.acceptFormat.port q
      = (match s.queue.find? fun e : QueueEntry => decide (e.port = q) with
        | none => s.formatTold.port q
        | some e => (s.formatTold.port q).queueFailed .aborted e.token).formatAccepted :=
  (Table.get_map ..).trans (congrArg _ (s.formatTold.port_failEach .aborted nodup q))

/-- FORMAT behind the gate of the store state and of the service flag (Table 35, R164). -/
theorem exec_format {s : State} (hr : s.inReset = false) (p : Port) :
    exec (.format p) s = .next (s.ifServed p 2
      (if (s.port p).service = false then s.refused p 2 .notService
      else ((s.endFrame p 2).acceptFormat).answer p (.result .queued []))) := by
  have service : ((s.endFrame p 2).port p).service = (s.port p).service := by rw [State.port_endFrame_self]; rfl
  refine serve_of_readGate hr (fun _ => rfl) ?_
  rw [service]
  split
  · rfl
  · rfl

/-- Settles O24: the checks of FORMAT, then its acceptance by the transaction state of each port. -/
theorem formatAccepted : Obligations.FormatAccepted := by
  intro p s hr consistent
  obtain ⟨-, nodup, queued, listed, -, -, -⟩ := consistent
  refine ⟨fun mounting => ?_, fun formatting => ?_, fun hm hf => ?_⟩
  · rw [exec_format hr, State.ifServed, mounting]
  · rw [exec_format hr, State.ifServed, formatting]
  · have served (t : State) : s.ifServed p 2 t = t := by
      unfold State.ifServed
      split
      · next mounting => exact absurd mounting hm
      · next formatting => exact absurd formatting hf
      · rfl
      · rfl
    by_cases clear : (s.port p).service = false
    · rw [if_pos clear, exec_format hr, served, if_pos clear]
    rw [if_neg clear]
    refine ⟨(s.endFrame p 2).acceptFormat.ports, ?_, fun q => ?_⟩
    · rw [exec_format hr, served, if_neg clear, State.acceptFormat_eq]
      rfl
    · have txn := s.txn_endFrame p 2 q
      have unqueued (other : (s.port q).txn ≠ .queued) : (s.queue.find? fun e => e.port = q) = none :=
        List.find?_eq_none.mpr fun e he same => other (of_decide_eq_true same ▸ (queued e he).1)
      have port := (s.endFrame p 2).port_acceptFormat nodup q
      rw [State.port_formatTold] at port
      refine port.trans ?_
      have queue : (s.endFrame p 2).queue = s.queue := rfl
      rw [queue]
      simp only [txn]
      generalize (s.endFrame p 2).port q = c at txn ⊢
      cases state : (s.port q).txn with
      | none | opened | running =>
        rw [unqueued (by simp [state])]
        simp only [PortState.formatAccepted]
      | queued =>
        obtain ⟨e, he, hp⟩ := listed q state
        cases entry : s.queue.find? fun e => e.port = q with
        | some _ => rfl
        | none => exact absurd (List.find?_eq_none.mp entry e he) (by simp [hp])

end Sys2Proof.Machine
end

section
/-!
SUPPORT. O25: notices sent in turn, leases that pass on in turn, and what PORT_RESET does to its own transaction.
-/

namespace Sys2Proof.Machine

/-! ## Notices sent in turn (R127, R128) -/

/-- The notices among them that go to port `q`, in their order. -/
def noticesTo (q : Port) (l : List (Port × NoticeBody)) : List NoticeBody :=
  l.filterMap fun x => if x.1 = q then some x.2 else none

theorem noticesTo_cons_self (q : Port) (b : NoticeBody) (l : List (Port × NoticeBody)) :
    noticesTo q ((q, b) :: l) = b :: noticesTo q l := List.filterMap_cons_some (if_pos rfl)

theorem noticesTo_cons_ne {p q : Port} (other : p ≠ q) (b : NoticeBody) (l : List (Port × NoticeBody)) :
    noticesTo q ((p, b) :: l) = noticesTo q l := List.filterMap_cons_none (if_neg other)

theorem State.port_sendAll (s : State) (l : List (Port × NoticeBody)) (q : Port) :
    (s.sendAll l).port q = (s.port q).told (noticesTo q l) := by
  induction l generalizing s with
  | nil => rfl
  | cons x rest ih =>
    obtain ⟨p, b⟩ := x
    have step : s.sendAll ((p, b) :: rest) = (s.notify p b).sendAll rest := rfl
    rw [step, ih, State.port_notify]
    by_cases hp : p = q
    · subst hp
      rw [if_pos rfl, noticesTo_cons_self]
      rfl
    · rw [if_neg (Ne.symm hp), noticesTo_cons_ne hp]

theorem State.sendAll_append (s : State) (l m : List (Port × NoticeBody)) : s.sendAll (l ++ m) = (s.sendAll l).sendAll m :=
  List.foldl_append

theorem State.sendAll_changes (s : State) (l : List (Port × NoticeBody)) :
    ∃ ports, s.sendAll l = { s with ports := ports } := by
  induction l generalizing s with
  | nil => exact ⟨s.ports, rfl⟩
  | cons x rest ih => exact ih (s.notify x.1 x.2)

theorem State.lease_sendAll (s : State) (l : List (Port × NoticeBody)) (w : WindowNo) :
    (s.sendAll l).lease w = s.lease w := by
  obtain ⟨ports, sent⟩ := s.sendAll_changes l
  rw [sent]
  rfl

theorem State.windows_sendAll (s : State) (l : List (Port × NoticeBody)) : (s.sendAll l).windows = s.windows := by
  obtain ⟨ports, sent⟩ := s.sendAll_changes l
  rw [sent]

/-! ## Leases that pass on in turn (R106, R115) -/

theorem State.windows_passOn (s : State) (w : WindowNo) : (s.passOn w).windows = s.windows := by
  rw [State.passOn_eq, State.windows_sendAll]
  rfl

theorem State.lease_passOn_ne (s : State) {v w : WindowNo} (other : v ≠ w) : (s.passOn w).lease v = s.lease v := by
  rw [State.lease_passOn, if_neg other]

theorem State.lease_passOn_self (s : State) (w : WindowNo) :
    (s.passOn w).lease w = (s.lease w).passedOn (s.leaseTime w) := by
  rw [State.passOn_eq, State.lease_sendAll, State.lease_setLease, if_pos rfl]

theorem State.holds_congr {s t : State} {w : WindowNo} (same : t.lease w = s.lease w) (p : Port) :
    t.holds p w = s.holds p w := by
  rw [State.holds, same, State.holds]

theorem mem_allWindows (w : WindowNo) : w ∈ allWindows := List.mem_finRange w

theorem nodup_allWindows : allWindows.Nodup := List.nodup_finRange 16

/-- The windows of the list that port `p` holds pass on, in the order of the list. -/
def State.passEach (s : State) (p : Port) (l : List WindowNo) : State :=
  l.foldl (fun s w => if s.holds p w then s.passOn w else s) s

theorem State.passEach_cons_of_held {s : State} {p : Port} {w : WindowNo} (held : s.holds p w = true)
    (rest : List WindowNo) : s.passEach p (w :: rest) = (s.passOn w).passEach p rest := by
  rw [State.passEach, List.foldl_cons, if_pos held]
  rfl

theorem State.passEach_cons_of_not_held {s : State} {p : Port} {w : WindowNo} (free : s.holds p w ≠ true)
    (rest : List WindowNo) : s.passEach p (w :: rest) = s.passEach p rest := by
  rw [State.passEach, List.foldl_cons, if_neg free]
  rfl

/-- The LEASE_GRANTED notices that go with them. -/
def State.grantsOf (s : State) (p : Port) (l : List WindowNo) : List (Port × NoticeBody) :=
  (l.filter (s.holds p)).flatMap fun w => (s.lease w).grants w

theorem State.grantsOf_congr {s t : State} {l : List WindowNo} (same : ∀ w ∈ l, t.lease w = s.lease w) (p : Port) :
    t.grantsOf p l = s.grantsOf p l := by
  have held : l.filter (t.holds p) = l.filter (s.holds p) :=
    List.filter_congr fun w hw => State.holds_congr (same w hw) p
  rw [State.grantsOf, held]
  exact List.flatMap_congr fun w hw => by rw [same w (List.mem_of_mem_filter hw)]

theorem State.lease_passEach (s : State) (p : Port) {l : List WindowNo} (nodup : l.Nodup) (v : WindowNo) :
    (s.passEach p l).lease v
      = if v ∈ l ∧ s.holds p v = true then (s.lease v).passedOn (s.leaseTime v) else s.lease v := by
  induction l generalizing s with
  | nil => simp [State.passEach]
  | cons w rest ih =>
    obtain ⟨notIn, nodup⟩ := List.nodup_cons.mp nodup
    by_cases held : s.holds p w = true
    · rw [State.passEach_cons_of_held held, ih _ nodup]
      by_cases same : v = w
      · subst same
        rw [if_neg fun h => notIn h.1, if_pos ⟨List.mem_cons_self, held⟩, State.lease_passOn_self]
      · have lease := s.lease_passOn_ne same
        have time : (s.passOn w).leaseTime v = s.leaseTime v := by
          rw [State.leaseTime, State.windows_passOn, State.leaseTime]
        simp only [lease, time, State.holds_congr lease, List.mem_cons, same, false_or]
    · rw [State.passEach_cons_of_not_held held, ih _ nodup]
      refine if_congr (and_congr_left fun h => ?_) rfl rfl
      rw [List.mem_cons, or_iff_right]
      exact fun same => held (same ▸ h)

theorem State.port_passEach (s : State) (p : Port) {l : List WindowNo} (nodup : l.Nodup) (q : Port) :
    (s.passEach p l).port q = (s.sendAll (s.grantsOf p l)).port q := by
  induction l generalizing s with
  | nil => rfl
  | cons w rest ih =>
    obtain ⟨notIn, nodup⟩ := List.nodup_cons.mp nodup
    by_cases held : s.holds p w = true
    · have grants : s.grantsOf p (w :: rest) = (s.lease w).grants w ++ s.grantsOf p rest := by
        rw [State.grantsOf, List.filter_cons_of_pos held]
        rfl
      have later : (s.passOn w).grantsOf p rest = s.grantsOf p rest :=
        State.grantsOf_congr (fun v hv => s.lease_passOn_ne (ne_of_mem_of_not_mem hv notIn)) p
      have port : (s.passOn w).port q = (s.sendAll ((s.lease w).grants w)).port q := by
        rw [State.passOn_eq, State.port_sendAll, State.port_sendAll]
        rfl
      rw [State.passEach_cons_of_held held, ih _ nodup, grants, later, State.sendAll_append, State.port_sendAll,
        State.port_sendAll, port]
    · have grants : s.grantsOf p (w :: rest) = s.grantsOf p rest := by
        rw [State.grantsOf, List.filter_cons_of_neg held]
        rfl
      rw [State.passEach_cons_of_not_held held, ih _ nodup, grants]

/-! ## The transaction of the port that resets (R63) -/

section
variable {s : State} {p : Port}

/-- Only the lease states that the port holds frozen change with its transaction: no holder and no wait list does (R113). -/
theorem State.lease_resetTransaction (s : State) (p : Port) (w : WindowNo) :
    ((s.resetTransaction p).lease w).waiters = (s.lease w).waiters
      ∧ (s.resetTransaction p).holds p w = s.holds p w
      ∧ (s.holds p w = false → (s.resetTransaction p).lease w = s.lease w) := by
  unfold State.resetTransaction
  split
  · exact ⟨rfl, rfl, fun _ => rfl⟩
  · exact ⟨rfl, rfl, fun _ => rfl⟩
  · split
    · next e found =>
      have own : e.port = p := by simpa using List.find?_some found
      simp only [State.holds, s.lease_failQueued, State.leasesThawed, Table.get_build, own]
      cases held : (s.lease w).held with
      | none => simp [held]
      | some h =>
        by_cases mine : h.port = p ∧ h.frozen = true
        · simp [mine]
        · simp [mine, held]
    · exact ⟨rfl, rfl, fun _ => rfl⟩
  · exact ⟨rfl, rfl, fun _ => rfl⟩

theorem State.port_resetTransaction_ne {q : Port} (other : q ≠ p) : (s.resetTransaction p).port q = s.port q := by
  unfold State.resetTransaction
  split
  · exact (State.port_onPort ..).trans (if_neg other)
  · exact (State.port_onPort ..).trans (if_neg other)
  · split
    · next e found =>
      have own : e.port = p := by simpa using List.find?_some found
      exact s.port_failQueued_ne e _ _ _ q (own ▸ other)
    · rfl
  · rfl

/-- A port's transaction context after PORT_RESET, `entry` being its queued commit (R63). -/
def PortState.transactionReset (c : PortState) (entry : Option QueueEntry) : PortState :=
  { c with
    txn := if c.txn = .running then .running else .none
    staging := if c.txn = .running ∨ c.txn = .none then c.staging else .records []
    lastOutcome := match c.txn with
      | .running => c.lastOutcome
      | .queued =>
        match entry with
        | some e => ⟨some e.token, .failed .aborted, none⟩
        | none => c.lastOutcome
      | .none => ⟨none, .none, none⟩
      | .opened => ⟨none, .none, none⟩ }

theorem PortState.transactionReset_of_none {c : PortState} (h : c.txn = .none) (entry : Option QueueEntry) :
    c.transactionReset entry = { c with lastOutcome := .reset } := by
  cases c
  cases h
  rfl

theorem PortState.transactionReset_of_opened {c : PortState} (h : c.txn = .opened) (entry : Option QueueEntry) :
    c.transactionReset entry = { c with txn := .none, staging := .records [], lastOutcome := .reset } := by
  cases c
  cases h
  rfl

theorem PortState.transactionReset_of_queued {c : PortState} (h : c.txn = .queued) (e : QueueEntry) :
    c.transactionReset (some e)
      = { c with txn := .none, staging := .records [], lastOutcome := ⟨some e.token, .failed .aborted, none⟩ } := by
  cases c
  cases h
  rfl

theorem PortState.transactionReset_of_running {c : PortState} (h : c.txn = .running) (entry : Option QueueEntry) :
    c.transactionReset entry = c := by
  cases c
  cases h
  rfl

theorem State.port_resetTransaction_self (listed : (s.port p).txn = .queued → ∃ e ∈ s.queue, e.port = p) :
    (s.resetTransaction p).port p = (s.port p).transactionReset (s.queueEntry p) := by
  unfold State.resetTransaction
  cases state : (s.port p).txn with
  | none => exact ((State.port_onPort ..).trans (if_pos rfl)).trans (PortState.transactionReset_of_none state _).symm
  | opened => exact ((State.port_onPort ..).trans (if_pos rfl)).trans (PortState.transactionReset_of_opened state _).symm
  | running => exact (PortState.transactionReset_of_running state _).symm
  | queued =>
    obtain ⟨e, he, hp⟩ := listed state
    cases entry : s.queueEntry p with
    | none => exact absurd (List.find?_eq_none.mp entry e he) (by simp [hp])
    | some e =>
      have own : e.port = p := by simpa using List.find?_some entry
      have port := s.port_failQueued_self e .aborted none false
      rw [own] at port
      exact port.trans (PortState.transactionReset_of_queued state e).symm

/-- Beside ports and leases PORT_RESET's transaction part changes the queue alone, which keeps the other ports' entries. -/
theorem State.resetTransaction_changes (queued : ∀ e ∈ s.queue, (s.port e.port).txn = .queued) :
    ∃ ports leases, s.resetTransaction p
      = { s with ports := ports, leases := leases, queue := s.queue.filter fun e => e.port ≠ p } := by
  have whole (none : ∀ e ∈ s.queue, e.port ≠ p) : (s.queue.filter fun e => e.port ≠ p) = s.queue :=
    List.filter_eq_self.mpr fun e he => decide_eq_true (none e he)
  unfold State.resetTransaction
  cases state : (s.port p).txn with
  | none | opened | running =>
    rw [whole fun e he same => by simpa [same, state] using queued e he]
    exact ⟨_, _, rfl⟩
  | queued =>
    cases entry : s.queueEntry p with
    | none =>
      rw [whole fun e he same => List.find?_eq_none.mp entry e he (by simp [same])]
      exact ⟨_, _, rfl⟩
    | some e =>
      have own : e.port = p := by simpa using List.find?_some entry
      rw [← own, ← filter_bne QueueEntry.port]
      exact s.failQueued_changes e .aborted none false

end

/-! ## PORT_RESET (R157) -/

theorem LeaseState.passedOn_congr {l m : LeaseState} (same : l.waiters = m.waiters) (ticks : Nat) :
    l.passedOn ticks = m.passedOn ticks := by
  rw [LeaseState.passedOn, same, LeaseState.passedOn]

theorem LeaseState.grants_congr {l m : LeaseState} (same : l.waiters = m.waiters) (w : WindowNo) :
    l.grants w = m.grants w := by
  rw [LeaseState.grants, same, LeaseState.grants]

/-- The port's transaction is reset and the port stands on no wait list; its leases have not passed on yet (R115). -/
def State.resetAndLeft (s : State) (p : Port) : State := (s.resetTransaction p).leaveWaitLists p

/-- The whole of PORT_RESET, its result among it. -/
def State.portCleared (s : State) (p : Port) : State :=
  (((s.resetAndLeft p).passEach p allWindows).onPort p PortState.clearSession).answer p (plain .ok)

theorem exec_portReset {s : State} (hr : s.inReset = false) (p : Port) :
    exec (.portReset p) s = .next ((s.endFrame p 2).portCleared p) := serve_answers hr p 2 _

section
variable {s : State} {p : Port}

theorem State.lease_resetAndLeft (s : State) (p : Port) (w : WindowNo) :
    ((s.resetAndLeft p).lease w).waiters = (s.lease w).waiters.filter (fun q => q ≠ p)
      ∧ (s.resetAndLeft p).holds p w = s.holds p w
      ∧ (s.holds p w = false →
        (s.resetAndLeft p).lease w = ⟨(s.lease w).held, (s.lease w).waiters.filter fun q => q ≠ p⟩) := by
  obtain ⟨waiters, holds, unheld⟩ := s.lease_resetTransaction p w
  have left := (s.resetTransaction p).lease_leaveWaitLists p w
  have apart : ((s.lease w).waiters.filter fun q => q != p) = (s.lease w).waiters.filter fun q => q ≠ p :=
    filter_bne (fun q : Port => q) p _
  rw [waiters, apart] at left
  refine ⟨congrArg LeaseState.waiters left, ?_, fun other => left.trans ?_⟩
  · rw [← holds, State.holds, State.resetAndLeft, left, State.holds]
  · rw [unheld other]

/-- Beside ports and leases PORT_RESET changes the queue alone (R157). -/
theorem State.portCleared_eq (queued : ∀ e ∈ s.queue, (s.port e.port).txn = .queued) :
    s.portCleared p
      = { s with
          ports := (s.portCleared p).ports, leases := (s.portCleared p).leases
          queue := s.queue.filter fun e => e.port ≠ p } := by
  obtain ⟨ports, leases, reset⟩ := State.resetTransaction_changes (p := p) queued
  obtain ⟨ports', leases', passed⟩ := (s.resetAndLeft p).passOnAll_changes p
  have all : (s.resetAndLeft p).passEach p allWindows = (s.resetAndLeft p).passOnAll p := rfl
  rw [State.portCleared, all, passed, State.resetAndLeft, reset]
  rfl

/-- Another port than the one that resets gets the grants of the leases that pass on, and nothing else (R157). -/
theorem State.port_portCleared_ne {q : Port} (other : q ≠ p) :
    (s.portCleared p).port q = (s.port q).told (noticesTo q ((s.resetAndLeft p).grantsOf p allWindows)) := by
  have left : (s.resetAndLeft p).port q = s.port q := State.port_resetTransaction_ne other
  rw [State.portCleared, State.answer, State.port_onPort, if_neg other, State.port_onPort, if_neg other,
    State.port_passEach _ p nodup_allWindows, State.port_sendAll, left]

/-- The port that resets: its transaction is reset and its session cleared, grants among it or not (R63, R157). -/
theorem State.port_portCleared_self (listed : (s.port p).txn = .queued → ∃ e ∈ s.queue, e.port = p) :
    (s.portCleared p).port p
      = { ((s.port p).transactionReset (s.queueEntry p)).clearSession with holder := plain .ok } := by
  have left : (s.resetAndLeft p).port p = (s.port p).transactionReset (s.queueEntry p) :=
    State.port_resetTransaction_self listed
  rw [State.portCleared, State.answer, State.port_onPort, if_pos rfl, State.port_onPort, if_pos rfl,
    State.port_passEach _ p nodup_allWindows, State.port_sendAll, left]
  rfl

/-- The windows that the port held pass on, and it stands on no wait list (R115). -/
theorem State.lease_portCleared (queued : ∀ e ∈ s.queue, (s.port e.port).txn = .queued) (w : WindowNo) :
    (s.portCleared p).lease w
      = if s.holds p w then LeaseState.passedOn ⟨none, (s.lease w).waiters.filter fun q => q ≠ p⟩ (s.leaseTime w)
        else ⟨(s.lease w).held, (s.lease w).waiters.filter fun q => q ≠ p⟩ := by
  obtain ⟨waiters, holds, unheld⟩ := s.lease_resetAndLeft p w
  have time : (s.resetAndLeft p).leaseTime w = s.leaseTime w := by
    obtain ⟨ports, leases, reset⟩ := State.resetTransaction_changes (p := p) queued
    rw [State.resetAndLeft, reset]
    rfl
  have passed := (s.resetAndLeft p).lease_passEach p nodup_allWindows w
  rw [time, holds] at passed
  have cleared (u : State) : ((u.onPort p PortState.clearSession).answer p (plain .ok)).lease w = u.lease w := rfl
  rw [State.portCleared, cleared, passed]
  cases held : s.holds p w with
  | true => exact (if_pos ⟨mem_allWindows w, rfl⟩).trans (LeaseState.passedOn_congr waiters _)
  | false => exact (if_neg fun h => Bool.false_ne_true h.2).trans (unheld held)

/-- The grants of the leases that pass on, by the leases before the port left the wait lists (R106, R115). -/
theorem State.grantsOf_resetAndLeft (s : State) (p : Port) :
    (s.resetAndLeft p).grantsOf p allWindows
      = (allWindows.filter (s.holds p)).flatMap fun w =>
          LeaseState.grants ⟨none, (s.lease w).waiters.filter fun q => q ≠ p⟩ w := by
  have holds : (s.resetAndLeft p).holds p = s.holds p := funext fun w => by
    obtain ⟨-, holds, -⟩ := s.lease_resetAndLeft p w
    exact holds
  rw [State.grantsOf, holds]
  refine List.flatMap_congr fun w _ => ?_
  obtain ⟨waiters, -, -⟩ := s.lease_resetAndLeft p w
  exact LeaseState.grants_congr waiters w

end

/-- Settles O25: the transaction's part, the wait lists and the leases that pass on, then what the port's session held. -/
theorem portResetClearsPort : Obligations.PortResetClearsPort := by
  intro p s hr consistent
  obtain ⟨-, -, queued, listed, -, -, -⟩ := consistent
  intro without mine grants
  have queued : ∀ e ∈ (s.endFrame p 2).queue, ((s.endFrame p 2).port e.port).txn = .queued :=
    fun e he => (s.txn_endFrame p 2 e.port).trans (queued e he).1
  refine ⟨((s.endFrame p 2).portCleared p).ports, ?_, fun q other => ?_, ?_⟩
  · have leases : ((s.endFrame p 2).portCleared p).leases = Table.build 16 fun w =>
        if mine w then LeaseState.passedOn ⟨none, without w⟩ (s.leaseTime w) else ⟨(s.lease w).held, without w⟩ := by
      refine Table.ext_get fun w => ?_
      rw [Table.get_build]
      exact State.lease_portCleared queued w
    rw [exec_portReset hr, State.portCleared_eq queued, leases]
    rfl
  · have sent : ((s.endFrame p 2).resetAndLeft p).grantsOf p allWindows = grants := State.grantsOf_resetAndLeft _ p
    refine (State.port_portCleared_ne other).trans ?_
    rw [sent, State.port_sendAll, State.port_endFrame, if_neg other]
  · have own := State.port_portCleared_self (s := s.endFrame p 2) (p := p) fun state =>
      listed p ((s.txn_endFrame p 2 p).symm.trans state)
    rw [State.port_endFrame_self] at own ⊢
    exact own

end Sys2Proof.Machine
end

section
/-!
SUPPORT. O40: a superseded page and the Census entry of its transaction (R66, R67).
-/

namespace Sys2Proof.Machine

/-- An entry has no LIVE page left without page `g` when it had no other (R67). -/
theorem CensusEntry.unlive_live_eq_zero_iff (e : CensusEntry) (g : PageNo) :
    (e.unlive g).live = 0 ↔ ¬∃ x ∈ e.pages, x.live = true ∧ x.page ≠ g := by
  have unlive : e.unlive g = e.without fun p => p == g := by
    simpa [e.without_nothing] using e.without_unlive (fun _ => false) g
  rw [unlive, CensusEntry.without_live_eq_zero_iff]
  simp

section
variable {before after : List CensusEntry} {q : Sequence} {pages : List CensusPage}
  (others : ∀ e ∈ before ++ after, e.sequence ≠ q)
include others

theorem census_find?_eq_some :
    (before ++ ⟨q, pages⟩ :: after).find? (fun e => e.sequence == q) = some ⟨q, pages⟩ := by
  have none : before.find? (fun e => e.sequence == q) = none :=
    List.find?_eq_none.mpr fun e he => by simpa using others e (List.mem_append_left _ he)
  rw [List.find?_append, none, Option.none_or, List.find?_cons_of_pos (by simp)]

theorem census_filter_ne :
    (before ++ ⟨q, pages⟩ :: after).filter (fun e => e.sequence != q) = before ++ after := by
  rw [List.filter_append, List.filter_cons_of_neg (by simp), ← List.filter_append]
  exact List.filter_eq_self.mpr fun e he => by simpa using others e he

theorem census_map_replace (f : CensusEntry) :
    ((before ++ ⟨q, pages⟩ :: after).map fun e => if e.sequence == q then f else e) = before ++ f :: after := by
  have keep {l : List CensusEntry} (h : ∀ e ∈ l, e.sequence ≠ q) :
      (l.map fun e => if e.sequence == q then f else e) = l :=
    (List.map_congr_left fun e he => by simp [h e he]).trans l.map_id
  rw [List.map_append, List.map_cons, keep fun e he => others e (List.mem_append_left _ he),
    keep fun e he => others e (List.mem_append_right _ he)]
  simp

end

/-- Settles O40: the transaction's one Census entry tells whether another of its pages is LIVE. -/
theorem pinRule : Obligations.PinRule := by
  intro s before after q pages g h census others _ live
  have found : s.census.find? (fun e => e.sequence == q) = some ⟨q, pages⟩ := census ▸ census_find?_eq_some others
  have last := CensusEntry.unlive_live_eq_zero_iff ⟨q, pages⟩ g
  split
  · next other =>
    have retains : s.supersede g q = { s.setPage g (.retained h) with
        census := s.census.map fun e => if e.sequence == q then CensusEntry.unlive ⟨q, pages⟩ g else e } := by
      simp only [State.supersede, found, if_neg fun none => last.mp none other, live, PageEntry.toRetained]
    have unlive : CensusEntry.unlive ⟨q, pages⟩ g = ⟨q, pages.map fun x => if x.page = g then ⟨g, false⟩ else x⟩ :=
      congrArg (CensusEntry.mk q) (List.map_congr_left fun x _ => by
        split
        · next page => rw [page]
        · rfl)
    rw [retains, census, census_map_replace others, unlive, State.setPage]
  · next alone =>
    have dead := last.mpr alone
    obtain ⟨table, census', changes⟩ := s.supersede_changes g q
    have tables := s.census_supersede found g
    rw [if_pos dead, changes, census, census_filter_ne others] at tables
    refine ⟨table, tables ▸ changes, fun k => ?_⟩
    have page := s.page_supersede found g k
    rwa [if_pos dead, changes] at page

end Sys2Proof.Machine
end

section
/-!
SUPPORT. O37: the complete groups of the statements are the groups that a mount keeps, in position order (R86, R87).
-/

namespace Sys2Proof.Machine

/-! ## The candidates of a mount (R86) -/

/-- The pages that a mount groups by sequence (R86). -/
def State.candidates (s : State) : List Found := (foundPages s.verdicts).filter Found.isCandidate

section
variable {s : State}

theorem PageImage.decodes_iff (i : PageImage) :
    i.decodes = true ↔ ∀ l, i.payload = .layout l → Layout.valid l = true := by
  unfold PageImage.decodes
  cases i.payload <;> simp

theorem PageImage.decodes_eq_false_iff (i : PageImage) :
    i.decodes = false ↔ ∃ l, i.payload = .layout l ∧ Layout.valid l = false := by
  rw [← Bool.not_eq_true, PageImage.decodes_iff]
  simp

theorem State.mem_candidates_iff {f : Found} :
    f ∈ s.candidates ↔ ReadsValid s.array f.page f.image ∧ f.image.header.kind ≠ .epoch
      ∧ ∀ l, f.image.payload = .layout l → Layout.valid l = true := by
  rw [State.candidates, List.mem_filter, mem_found_iff, ← PageImage.decodes_iff]
  simp [Found.isCandidate, Found.isEpoch]

theorem foundPages_nodup (v : Table PageVerdict 320) : (foundPages v).Nodup := by
  refine (List.nodup_finRange 320).filterMap fun g h f hg hh => ?_
  obtain ⟨i, -, rfl⟩ := Option.map_eq_some_iff.mp hg
  obtain ⟨j, -, same⟩ := Option.map_eq_some_iff.mp hh
  exact (congrArg Found.page same).symm

theorem State.groupOf_candidates_nodup (q : Sequence) : (groupOf s.candidates q).Nodup :=
  ((foundPages_nodup _).filter _).filter _

/-- A candidate's position lies from 1 to its count, and the count is at most 8 (R21, Table 7). -/
theorem State.position_of_candidate {f : Found} (hf : f ∈ s.candidates) :
    1 ≤ f.image.header.position ∧ f.image.header.position ≤ f.image.header.count ∧ f.image.header.count ≤ 8 := by
  obtain ⟨⟨-, -, inRange⟩, -⟩ := State.mem_candidates_iff.mp hf
  simp only [PageImage.inRange, Header.groupInRange, Bool.and_eq_true, decide_eq_true_eq] at inRange
  omega

/-! ## A group in position order (R87) -/

/-- A complete group, whole: besides what `groupComplete_iff` says, a page, and one relocated flag (R87). -/
theorem groupComplete_iff_whole (group : List Found) :
    groupComplete group = true ↔ group ≠ [] ∧ (∀ x ∈ group, x.image.header.count = group.length)
      ∧ (∀ x ∈ group, ∀ y ∈ group, x.image.header.relocated = y.image.header.relocated)
      ∧ (∀ k < group.length, group.countP (fun f => f.image.header.position == k + 1) = 1)
      ∧ (group.map fun x => x.image.header.record).Nodup := by
  constructor
  · intro complete
    obtain ⟨count, once, distinct⟩ := groupComplete_iff complete
    cases group with
    | nil => cases complete
    | cons f rest =>
      simp only [groupComplete, Bool.and_eq_true, List.all_eq_true, beq_iff_eq] at complete
      obtain ⟨⟨⟨same, -⟩, -⟩, -⟩ := complete
      exact ⟨List.cons_ne_nil _ _, count, fun x hx y hy => (same x hx).2.trans (same y hy).2.symm, once, distinct⟩
  · rintro ⟨nonempty, count, relocated, once, distinct⟩
    cases group with
    | nil => exact absurd rfl nonempty
    | cons f rest =>
      have mem : f ∈ f :: rest := List.mem_cons_self
      simp only [groupComplete, positionsOnce, Bool.and_eq_true, List.all_eq_true, beq_iff_eq, decide_eq_true_eq,
        List.mem_range, count f mem]
      exact ⟨⟨⟨fun x hx => ⟨count x hx, relocated x hx f mem⟩, trivial⟩, once⟩, distinct⟩

theorem groupComplete_of_perm {l m : List Found} (perm : l.Perm m) (complete : groupComplete l = true) :
    groupComplete m = true := by
  rw [groupComplete_iff_whole] at complete ⊢
  obtain ⟨nonempty, count, relocated, once, distinct⟩ := complete
  refine ⟨fun nil => nonempty (nil ▸ perm).eq_nil, fun x hx => perm.length_eq ▸ count x (perm.mem_iff.mpr hx),
    fun x hx y hy => relocated x (perm.mem_iff.mpr hx) y (perm.mem_iff.mpr hy), fun k hk => ?_,
    (perm.map _).nodup distinct⟩
  rw [← perm.countP_eq]
  exact once k (perm.length_eq ▸ hk)

/-- The positions of the list are 1, 2, 3 and so on. -/
def Positioned (l : List Found) : Prop :=
  (l.map fun f => f.image.header.position) = (List.range l.length).map (· + 1)

theorem Positioned.nodup_positions {l : List Found} (h : Positioned l) :
    (l.map fun f => f.image.header.position).Nodup := by
  rw [h]
  exact List.nodup_range.map (add_left_injective 1)

theorem Positioned.once {l : List Found} (h : Positioned l) (k : Nat) (hk : k < l.length) :
    l.countP (fun f => f.image.header.position == k + 1) = 1 := by
  have count : (l.map fun f => f.image.header.position).count (k + 1) = 1 :=
    List.count_eq_one_of_mem h.nodup_positions (by rw [h]; simpa using hk)
  rwa [List.count, List.countP_map] at count

theorem mem_inPositionOrder {group : List Found} {f : Found} :
    f ∈ inPositionOrder group
      ↔ f ∈ group ∧ 1 ≤ f.image.header.position ∧ f.image.header.position ≤ 8 := by
  simp only [inPositionOrder, List.mem_flatMap, List.mem_range, List.mem_filter, beq_iff_eq]
  constructor
  · rintro ⟨k, hk, mem, position⟩
    exact ⟨mem, by omega, by omega⟩
  · rintro ⟨mem, low, high⟩
    exact ⟨f.image.header.position - 1, by omega, mem, by omega⟩

/-- The group of a sequence, complete, in position order: the same pages, at positions 1, 2, 3 and so on (R87). -/
theorem State.inPositionOrder_complete {q : Sequence} (complete : groupComplete (groupOf s.candidates q) = true) :
    Positioned (inPositionOrder (groupOf s.candidates q))
      ∧ (inPositionOrder (groupOf s.candidates q)).Perm (groupOf s.candidates q) := by
  obtain ⟨nonempty, count, -, once, -⟩ := (groupComplete_iff_whole _).mp complete
  have inRange {f : Found} (hf : f ∈ groupOf s.candidates q) := State.position_of_candidate (mem_groupOf.mp hf).1
  obtain ⟨f, hf⟩ := List.exists_mem_of_ne_nil _ nonempty
  have few : (groupOf s.candidates q).length ≤ 8 := count f hf ▸ (inRange hf).2.2
  have within : ∀ x ∈ groupOf s.candidates q, x.image.header.position ≤ (groupOf s.candidates q).length := fun x hx =>
    count x hx ▸ (inRange hx).2.1
  obtain ⟨F, order, at_⟩ := inPositionOrder_eq few once within
  have positioned : Positioned (inPositionOrder (groupOf s.candidates q)) := by
    rw [Positioned, order, List.length_map, List.length_range, List.map_map]
    exact List.map_congr_left fun k hk => (at_ k (List.mem_range.mp hk)).2
  refine ⟨positioned, (List.perm_ext_iff_of_nodup positioned.nodup_positions.of_map
    (s.groupOf_candidates_nodup q)).mpr fun x => ?_⟩
  rw [mem_inPositionOrder]
  refine ⟨And.left, fun hx => ⟨hx, ?_⟩⟩
  obtain ⟨low, high, few⟩ := inRange hx
  exact ⟨low, high.trans few⟩

/-- Lists with the same pages, each at positions 1, 2, 3 and so on, are one list. -/
theorem Positioned.eq_of_perm {l m : List Found} (hl : Positioned l) (hm : Positioned m) (perm : l.Perm m) : l = m := by
  have position {n : List Found} (h : Positioned n) (k : Nat) (hk : k < n.length) :
      (n[k]).image.header.position = k + 1 := by
    have := List.getElem_of_eq h (i := k) (by simpa using hk)
    simpa using this
  refine List.ext_getElem perm.length_eq fun k hk hk' => ?_
  exact List.inj_on_of_nodup_map hl.nodup_positions (List.getElem_mem hk) (perm.mem_iff.mpr (List.getElem_mem hk'))
    ((position hl k hk).trans (position hm k hk').symm)

/-! ## The complete groups of the statements (R87) -/

/-- A found page, as the statements list it. -/
def Found.pair (f : Found) : PageNo × PageImage := (f.page, f.image)

theorem Found.exists_map_pair (group : List (PageNo × PageImage)) : ∃ l : List Found, group = l.map Found.pair :=
  ⟨group.map fun x => ⟨x.1, x.2⟩, by simp [Function.comp_def, Found.pair]⟩

theorem Found.mem_map_pair {l : List Found} {f : Found} : f.pair ∈ l.map Found.pair ↔ f ∈ l :=
  List.mem_map_of_injective fun a b h => by cases a; cases b; simpa [Found.pair] using h

/-- A list is a complete group exactly if it holds the candidates of the sequence, one to each position in order, and they
are complete as the mount judges them (R87). -/
theorem State.completeGroup_map_pair {q : Sequence} {l : List Found} :
    CompleteGroup s.array q (l.map Found.pair)
      ↔ groupComplete l = true ∧ Positioned l ∧ ∀ f, f ∈ l ↔ f ∈ groupOf s.candidates q := by
  have stands (f : Found) : f ∈ groupOf s.candidates q ↔ ReadsValid s.array f.page f.image ∧ f.sequence = q
      ∧ f.image.header.kind ≠ .epoch ∧ ∀ l, f.image.payload = .layout l → Layout.valid l = true := by
    rw [mem_groupOf, State.mem_candidates_iff]
    tauto
  simp only [CompleteGroup, List.forall_mem_map, List.map_map, List.length_map, ne_eq, List.map_eq_nil_iff]
  constructor
  · rintro ⟨nonempty, pages, relocated, positions, distinct, whole⟩
    have positioned : Positioned l := positions
    refine ⟨(groupComplete_iff_whole l).mpr ⟨nonempty, fun x hx => (pages x hx).2, relocated, positioned.once, distinct⟩,
      positioned, fun f => ⟨fun hf => (stands f).mpr (pages f hf).1, fun hf => ?_⟩⟩
    exact Found.mem_map_pair.mp (whole f.page f.image ((stands f).mp hf))
  · rintro ⟨complete, positioned, same⟩
    obtain ⟨nonempty, count, relocated, -, distinct⟩ := (groupComplete_iff_whole l).mp complete
    exact ⟨nonempty, fun x hx => ⟨(stands x).mp ((same x).mp hx), count x hx⟩, relocated, positioned, distinct,
      fun g i valid => Found.mem_map_pair (f := ⟨g, i⟩).mpr ((same ⟨g, i⟩).mpr ((stands ⟨g, i⟩).mpr valid))⟩

/-- The complete group of a sequence is the group of its candidates in position order, if that is complete (R87). -/
theorem State.completeGroup_iff {q : Sequence} {group : List (PageNo × PageImage)} :
    CompleteGroup s.array q group ↔ groupComplete (groupOf s.candidates q) = true
      ∧ group = (inPositionOrder (groupOf s.candidates q)).map Found.pair := by
  constructor
  · intro h
    obtain ⟨l, rfl⟩ := Found.exists_map_pair group
    obtain ⟨complete, positioned, same⟩ := State.completeGroup_map_pair.mp h
    have perm : l.Perm (groupOf s.candidates q) :=
      (List.perm_ext_iff_of_nodup positioned.nodup_positions.of_map (s.groupOf_candidates_nodup q)).mpr same
    have whole := groupComplete_of_perm perm complete
    obtain ⟨positioned', perm'⟩ := State.inPositionOrder_complete whole
    exact ⟨whole, congrArg _ (positioned.eq_of_perm positioned' (perm.trans perm'.symm))⟩
  · rintro ⟨complete, rfl⟩
    obtain ⟨positioned, perm⟩ := State.inPositionOrder_complete complete
    exact State.completeGroup_map_pair.mpr ⟨groupComplete_of_perm perm.symm complete, positioned, fun f => perm.mem_iff⟩

/-- The sequence of a complete group is that of its pages (R87). -/
theorem sequence_of_mem_group {q : Sequence} {group : List (PageNo × PageImage)} {x : PageNo × PageImage}
    (complete : CompleteGroup s.array q group) (mem : x ∈ group) : x.2.header.sequence = q := by
  obtain ⟨-, pages, -⟩ := complete
  obtain ⟨⟨-, sequence, -⟩, -⟩ := pages x mem
  exact sequence

/-- The group of a sequence is incomplete when the sequence has no complete group (R87). -/
theorem groupComplete_eq_false_iff (q : Sequence) :
    groupComplete (groupOf s.candidates q) = false ↔ ∀ group, ¬CompleteGroup s.array q group := by
  rw [← Bool.not_eq_true]
  exact ⟨fun incomplete group complete => incomplete (State.completeGroup_iff.mp complete).1,
    fun none whole => none _ (State.completeGroup_iff.mpr ⟨whole, rfl⟩)⟩

end

end Sys2Proof.Machine
end

section
/-!
SUPPORT. O37: what a mount without an EPOCH page restores, in terms of the complete groups (R65, R87, R90 to R92).
-/

namespace Sys2Proof.Machine

section
variable {s : State}

/-! ## What every mount leaves (R22, R87, R90 to R92) -/

/-- A record's entry is the image of its LIVE page (R91). -/
theorem State.remounted_record_of_live {f : Found} (hf : f ∈ livePages (mountComplete s.verdicts)) {r : RecordNo}
    (hr : f.image.header.record = some r) : s.remounted.record r = f.image.entry f.page := by
  rw [State.record_remounted]
  rcases mountedRecord_cases (livePages (mountComplete s.verdicts)) r with ⟨-, none⟩ | ⟨x, hx, hxr, e⟩
  · exact absurd hr (none f hf)
  · obtain rfl := livePages_eq_of_record hx hf (hxr.trans hr.symm)
    exact e

/-- The page that backs a record is the LIVE one with it (R90, R91). -/
theorem State.remounted_backing_iff (r : RecordNo) (g : PageNo) (q : Sequence) :
    (s.remounted.record r).backing = some (g, q)
      ↔ ∃ f ∈ livePages (mountComplete s.verdicts), f.image.header.record = some r ∧ f.page = g ∧ f.sequence = q := by
  have backing {f : Found} (hf : f ∈ livePages (mountComplete s.verdicts)) :
      (f.image.entry f.page).backing = some (f.page, f.sequence) := by
    have member := mountComplete_member (mem_livePages.mp hf).1
    exact (PageImage.entry_backed f.page member.version member.kind).1
  constructor
  · intro h
    rw [State.record_remounted] at h
    rcases mountedRecord_cases (livePages (mountComplete s.verdicts)) r with ⟨e, -⟩ | ⟨f, hf, hr, e⟩
    · rw [e] at h
      cases h
    · rw [e, backing hf, Option.some.injEq, Prod.mk.injEq] at h
      exact ⟨f, hf, hr, h⟩
  · rintro ⟨f, hf, hr, rfl, rfl⟩
    rw [State.remounted_record_of_live hf hr, backing hf]

/-- The entry of a record is what its page holds (R91). -/
theorem State.remounted_record_of_backing {r : RecordNo} {g : PageNo} {q : Sequence} {i : PageImage}
    (h : (s.remounted.record r).backing = some (g, q)) (hg : s.array.get g = .programmed i) :
    s.remounted.record r = i.entry g := by
  obtain ⟨f, hf, hr, rfl, -⟩ := (State.remounted_backing_iff r g q).mp h
  obtain ⟨content, -⟩ := State.verdict_valid_iff.mp (mountComplete_page (mem_livePages.mp hf).1)
  obtain rfl := PageContent.programmed.inj (content.symm.trans hg)
  exact State.remounted_record_of_live hf hr

theorem State.remounted_isLive_iff (g : PageNo) :
    (s.remounted.page g).isLive = true ↔ ∃ f ∈ livePages (mountComplete s.verdicts), f.page = g := by
  constructor
  · intro live
    obtain ⟨f, -, rfl, ⟨hf, -⟩ | ⟨-, page⟩⟩ := State.remounted_kept ((PageEntry.isKept_iff _).mpr (.inl live))
    · exact ⟨f, hf, rfl⟩
    · rw [page] at live
      cases live
  · rintro ⟨f, hf, rfl⟩
    rw [State.remounted_page_of_live hf]
    rfl

theorem State.remounted_isLive_iff_backing (g : PageNo) :
    (s.remounted.page g).isLive = true ↔ ∃ r q, (s.remounted.record r).backing = some (g, q) := by
  rw [State.remounted_isLive_iff]
  constructor
  · rintro ⟨f, hf, rfl⟩
    obtain ⟨r, hr⟩ := Option.isSome_iff_exists.mp (mountComplete_member (mem_livePages.mp hf).1).record
    exact ⟨r, f.sequence, (State.remounted_backing_iff r _ _).mpr ⟨f, hf, hr, rfl, rfl⟩⟩
  · rintro ⟨r, q, h⟩
    obtain ⟨f, hf, -, page, -⟩ := (State.remounted_backing_iff r g q).mp h
    exact ⟨f, hf, page⟩

theorem State.remounted_isRetained_iff (g : PageNo) :
    (s.remounted.page g).isRetained = true ↔ (s.remounted.page g).isLive = false
      ∧ ∃ f ∈ keptPages (mountComplete s.verdicts) (livePages (mountComplete s.verdicts)), f.page = g := by
  constructor
  · intro retained
    obtain ⟨f, hf, rfl, ⟨-, page⟩ | ⟨-, page⟩⟩ := State.remounted_kept ((PageEntry.isKept_iff _).mpr (.inr retained))
    · rw [page] at retained
      cases retained
    · exact ⟨by rw [page]; rfl, f, hf, rfl⟩
  · rintro ⟨dead, f, hf, rfl⟩
    rw [State.remounted_page_of_kept hf] at dead ⊢
    split at dead
    · cases dead
    · next other => rw [if_neg other]; rfl

/-- The header fields of a page after a mount are those read from it (R22, R90). -/
theorem State.remounted_header {g : PageNo} {h : Header} (header : (s.remounted.page g).header = some h) :
    ∃ i, s.array.get g = .programmed i ∧ h = i.header := by
  have kept : (s.remounted.page g).isKept = true := by
    have settled := State.remounted_not_pending (s := s) g
    cases page : s.remounted.page g with
    | live _ => rfl
    | retained _ => rfl
    | pending _ =>
      rw [page] at settled
      cases settled
    | clean => simp [page, PageEntry.header] at header
    | stale => simp [page, PageEntry.header] at header
    | bad => simp [page, PageEntry.header] at header
  obtain ⟨f, hf, rfl, page⟩ := State.remounted_kept kept
  obtain ⟨content, -⟩ := State.verdict_valid_iff.mp (mountComplete_page (mem_keptPages.mp hf).1)
  refine ⟨f.image, content, ?_⟩
  obtain ⟨-, page⟩ | ⟨-, page⟩ := page <;> rw [page] at header <;> exact (Option.some.inj header).symm

theorem State.verdict_damaged_iff (g : PageNo) :
    s.verdicts.get g = .damaged
      ↔ s.array.get g = .damaged ∨ ∃ i, s.array.get g = .programmed i ∧ ¬ReadsValid s.array g i := by
  constructor
  · intro h
    cases content : s.array.get g with
    | damaged => exact .inl rfl
    | programmed i =>
      refine .inr ⟨i, rfl, fun valid => ?_⟩
      rw [State.verdict_valid_iff.mpr valid] at h
      cases h
    | blank => simp [s.verdicts_get, content, PageContent.verdict] at h
    | retired => simp [s.verdicts_get, content, PageContent.verdict] at h
  · rintro (damaged | ⟨i, programmed, invalid⟩)
    · rw [s.verdicts_get, damaged]
      rfl
    · exact State.verdict_damaged programmed invalid

end

section
variable {s : State} (noEpoch : ∀ g i, ReadsValid s.array g i → i.header.kind ≠ .epoch)
include noEpoch

/-! ## The pages of complete groups (R87) -/

theorem mem_mountComplete_iff {f : Found} :
    f ∈ mountComplete s.verdicts ↔ f ∈ s.candidates ∧ groupComplete (groupOf s.candidates f.sequence) = true := by
  rw [mountComplete, epochPage_eq_none noEpoch]
  exact List.mem_filter

/-- The pages that the mount goes by are those of the complete groups (R87). -/
theorem mem_mountComplete_iff_group {f : Found} :
    f ∈ mountComplete s.verdicts ↔ ∃ group, CompleteGroup s.array f.sequence group ∧ f.pair ∈ group := by
  rw [mem_mountComplete_iff noEpoch]
  constructor
  · rintro ⟨candidate, complete⟩
    refine ⟨_, State.completeGroup_iff.mpr ⟨complete, rfl⟩, Found.mem_map_pair.mpr ?_⟩
    exact (State.inPositionOrder_complete complete).2.mem_iff.mpr (mem_groupOf.mpr ⟨candidate, rfl⟩)
  · rintro ⟨group, complete, mem⟩
    obtain ⟨whole, rfl⟩ := State.completeGroup_iff.mp complete
    have inGroup := (State.inPositionOrder_complete whole).2.mem_iff.mp (Found.mem_map_pair.mp mem)
    exact ⟨(mem_groupOf.mp inGroup).1, whole⟩

theorem groupOf_mountComplete {q : Sequence} (complete : groupComplete (groupOf s.candidates q) = true) :
    groupOf (mountComplete s.verdicts) q = groupOf s.candidates q := by
  rw [mountComplete, epochPage_eq_none noEpoch]
  exact groupOf_completeCandidates complete

/-- A page of a complete group is one that the mount goes by (R87). -/
theorem mem_mountComplete_of_group {q : Sequence} {group : List (PageNo × PageImage)} {x : PageNo × PageImage}
    (complete : CompleteGroup s.array q group) (mem : x ∈ group) : (⟨x.1, x.2⟩ : Found) ∈ mountComplete s.verdicts := by
  obtain rfl := sequence_of_mem_group complete mem
  exact (mem_mountComplete_iff_group noEpoch).mpr ⟨group, complete, mem⟩

/-! ## Records and their pages (R90, R91) -/

/-- A page is the LIVE one of a record when it holds it in the complete group of highest sequence among those that hold it
(R90). -/
theorem mem_livePages_iff_group {f : Found} {r : RecordNo} (hr : f.image.header.record = some r) :
    f ∈ livePages (mountComplete s.verdicts)
      ↔ (∃ group, CompleteGroup s.array f.sequence group ∧ f.pair ∈ group)
        ∧ ∀ q group, CompleteGroup s.array q group → (∃ x ∈ group, x.2.header.record = some r) →
          q.toNat ≤ f.sequence.toNat := by
  rw [mem_livePages, mem_mountComplete_iff_group noEpoch, hr]
  refine and_congr_right fun _ => ⟨?_, ?_⟩
  · rintro top q group complete ⟨x, hx, record⟩
    have below := top ⟨x.1, x.2⟩ (mem_mountComplete_of_group noEpoch complete hx) record
    rwa [← sequence_of_mem_group complete hx]
  · intro top x hx record
    obtain ⟨group, complete, mem⟩ := (mem_mountComplete_iff_group noEpoch).mp hx
    exact top x.sequence group complete ⟨x.pair, mem, record⟩

theorem State.remounted_backing_iff_group (r : RecordNo) (g : PageNo) (q : Sequence) :
    (s.remounted.record r).backing = some (g, q)
      ↔ (∃ group i, CompleteGroup s.array q group ∧ (g, i) ∈ group ∧ i.header.record = some r)
        ∧ ∀ q' group, CompleteGroup s.array q' group → (∃ x ∈ group, x.2.header.record = some r) →
          q'.toNat ≤ q.toNat := by
  rw [State.remounted_backing_iff]
  constructor
  · rintro ⟨f, hf, hr, rfl, rfl⟩
    obtain ⟨⟨group, complete, mem⟩, top⟩ := (mem_livePages_iff_group noEpoch hr).mp hf
    exact ⟨⟨group, f.image, complete, mem, hr⟩, top⟩
  · rintro ⟨⟨group, i, complete, mem, hr⟩, top⟩
    obtain rfl := sequence_of_mem_group complete mem
    exact ⟨⟨g, i⟩, (mem_livePages_iff_group noEpoch (f := ⟨g, i⟩) hr).mpr ⟨⟨group, complete, mem⟩, top⟩, hr, rfl, rfl⟩

/-! ## The Page Directory (R90) -/

/-- A complete group has a LIVE page exactly if one of its sequence is LIVE (R90). -/
theorem exists_live_of_group_iff {q : Sequence} {group : List (PageNo × PageImage)}
    (complete : CompleteGroup s.array q group) :
    (∃ x ∈ group, (s.remounted.page x.1).isLive = true)
      ↔ ∃ f ∈ livePages (mountComplete s.verdicts), f.sequence = q := by
  constructor
  · rintro ⟨x, hx, live⟩
    obtain ⟨f, hf, page⟩ := (State.remounted_isLive_iff x.1).mp live
    have here := mountComplete_page (mem_livePages.mp hf).1
    have there := mountComplete_page (mem_mountComplete_of_group noEpoch complete hx)
    have image : f.image = x.2 := PageVerdict.valid.inj (here.symm.trans (page ▸ there))
    exact ⟨f, hf, by rw [Found.sequence, image, sequence_of_mem_group complete hx]⟩
  · rintro ⟨f, hf, rfl⟩
    obtain ⟨group', complete', mem⟩ := (mem_mountComplete_iff_group noEpoch).mp (mem_livePages.mp hf).1
    obtain ⟨-, rfl⟩ := State.completeGroup_iff.mp complete
    obtain ⟨-, rfl⟩ := State.completeGroup_iff.mp complete'
    exact ⟨f.pair, mem, (State.remounted_isLive_iff f.page).mpr ⟨f, hf, rfl⟩⟩

theorem State.remounted_isRetained_iff_group (g : PageNo) :
    (s.remounted.page g).isRetained = true ↔ (s.remounted.page g).isLive = false
      ∧ ∃ q group, CompleteGroup s.array q group ∧ g ∈ group.map Prod.fst
        ∧ ∃ x ∈ group, (s.remounted.page x.1).isLive = true := by
  rw [State.remounted_isRetained_iff]
  refine and_congr_right fun _ => ⟨?_, ?_⟩
  · rintro ⟨f, hf, rfl⟩
    obtain ⟨mem, x, hx, sequence⟩ := mem_keptPages.mp hf
    obtain ⟨group, complete, mem⟩ := (mem_mountComplete_iff_group noEpoch).mp mem
    exact ⟨f.sequence, group, complete, List.mem_map_of_mem (f := Prod.fst) mem,
      (exists_live_of_group_iff noEpoch complete).mpr ⟨x, hx, sequence⟩⟩
  · rintro ⟨q, group, complete, mem, live⟩
    obtain ⟨x, hx, rfl⟩ := List.mem_map.mp mem
    obtain ⟨f, hf, sequence⟩ := (exists_live_of_group_iff noEpoch complete).mp live
    exact ⟨⟨x.1, x.2⟩, mem_keptPages.mpr ⟨mem_mountComplete_of_group noEpoch complete hx, f, hf,
      sequence.trans (sequence_of_mem_group complete hx).symm⟩, rfl⟩

/-! ## The Census (R65) -/

/-- The Census entry of a kept group holds its pages in position order (R65, R90). -/
theorem mountedGroup_eq {q : Sequence} {group : List (PageNo × PageImage)} (complete : CompleteGroup s.array q group) :
    mountedGroup (mountComplete s.verdicts) q = ⟨q, group.map fun x => ⟨x.1, (s.remounted.page x.1).isLive⟩⟩ := by
  obtain ⟨whole, rfl⟩ := State.completeGroup_iff.mp complete
  rw [mountedGroup, groupOf_mountComplete noEpoch whole, List.map_map]
  refine congrArg (CensusEntry.mk q) (List.map_congr_left fun f _ => ?_)
  rw [Function.comp_apply, Found.pair, CensusPage.mk.injEq, Bool.eq_iff_iff, State.remounted_isLive_iff]
  simp

theorem State.mem_census_remounted_iff (q : Sequence) (pages : List CensusPage) :
    ⟨q, pages⟩ ∈ s.remounted.census ↔ ∃ group, CompleteGroup s.array q group
      ∧ (∃ x ∈ group, (s.remounted.page x.1).isLive = true)
      ∧ pages = group.map fun x => ⟨x.1, (s.remounted.page x.1).isLive⟩ := by
  rw [State.census_remounted, List.mem_map]
  constructor
  · rintro ⟨q', mem, entry⟩
    obtain rfl : q' = q := congrArg CensusEntry.sequence entry
    obtain ⟨f, hf, rfl⟩ := List.mem_map.mp ((mem_increasing _ _).mp mem)
    obtain ⟨group, complete, -⟩ := (mem_mountComplete_iff_group noEpoch).mp (mem_livePages.mp hf).1
    rw [mountedGroup_eq noEpoch complete] at entry
    exact ⟨group, complete, (exists_live_of_group_iff noEpoch complete).mpr ⟨f, hf, rfl⟩,
      (congrArg CensusEntry.pages entry).symm⟩
  · rintro ⟨group, complete, live, rfl⟩
    obtain ⟨f, hf, rfl⟩ := (exists_live_of_group_iff noEpoch complete).mp live
    exact ⟨_, (mem_increasing _ _).mpr (List.mem_map_of_mem hf), mountedGroup_eq noEpoch complete⟩

/-! ## The recovered flag (R92) -/

/-- The recovered flag in the terms of the found pages: none is an EPOCH page (R92). -/
theorem State.remounted_recovered_iff_found :
    s.remounted.recovered = true
      ↔ (∃ g, s.verdicts.get g = .damaged) ∨ (∃ f ∈ foundPages s.verdicts, f.image.decodes = false)
        ∨ ∃ f ∈ s.candidates, groupComplete (groupOf s.candidates f.sequence) = false := by
  obtain ⟨-, -, recovered⟩ := s.remounted_others
  have damaged (v : PageVerdict) : v.isDamaged = true ↔ v = .damaged := by cases v <;> simp [PageVerdict.isDamaged]
  have noneEpoch : ∀ f ∈ foundPages s.verdicts, f.isEpoch = false := fun f hf =>
    beq_eq_false_iff_ne.mpr (noEpoch _ _ (mem_found_iff.mp hf))
  have noEpochs : (foundPages s.verdicts).any Found.isEpoch = false :=
    List.any_eq_false.mpr fun f hf => Bool.not_eq_true _ ▸ noneEpoch f hf
  have undecoded : (∃ f ∈ foundPages s.verdicts, (!f.isEpoch && !f.image.decodes) = true)
      ↔ ∃ f ∈ foundPages s.verdicts, f.image.decodes = false :=
    exists_congr fun f => and_congr_right fun hf => by simp [noneEpoch f hf]
  rw [recovered, mountRecovered, noEpochs, Bool.or_false, Bool.or_eq_true, Bool.or_eq_true, List.any_eq_true,
    List.any_eq_true, undecoded, List.any_eq_true, or_assoc]
  simp only [damaged, Table.mem_rows_iff, Bool.not_eq_true', ↓existsAndEq, true_and, State.candidates]

/-- What a mount without an EPOCH page recovers from (R92). -/
theorem State.remounted_recovered_iff :
    s.remounted.recovered = true
      ↔ (∃ g, s.array.get g = .damaged ∨ ∃ i, s.array.get g = .programmed i ∧ ¬ReadsValid s.array g i)
        ∨ ∃ g i, ReadsValid s.array g i
          ∧ ((∃ l, i.payload = .layout l ∧ Layout.valid l = false)
            ∨ ∀ group, ¬CompleteGroup s.array i.header.sequence group) := by
  simp only [State.remounted_recovered_iff_found noEpoch, State.verdict_damaged_iff, ← PageImage.decodes_eq_false_iff,
    ← groupComplete_eq_false_iff]
  refine or_congr_right ⟨?_, ?_⟩
  · rintro (⟨f, hf, undecoded⟩ | ⟨f, hf, incomplete⟩)
    · exact ⟨f.page, f.image, mem_found_iff.mp hf, .inl undecoded⟩
    · exact ⟨f.page, f.image, (State.mem_candidates_iff.mp hf).1, .inr incomplete⟩
  · rintro ⟨g, i, valid, verdict⟩
    cases decodes : i.decodes with
    | false => exact .inl ⟨⟨g, i⟩, mem_found_iff.mpr valid, decodes⟩
    | true =>
      have candidate : (⟨g, i⟩ : Found) ∈ s.candidates :=
        State.mem_candidates_iff.mpr ⟨valid, noEpoch g i valid, (PageImage.decodes_iff i).mp decodes⟩
      exact .inr ⟨⟨g, i⟩, candidate, verdict.resolve_left (by simp [decodes])⟩

end

/-- Settles O37: the complete groups are those that the mount goes by, and its tables are read off their LIVE pages. -/
theorem mountRestoresRecords : Obligations.MountRestoresRecords := by
  intro s t inReset job noEpoch ends
  obtain rfl := Host.Outcome.next.inj ((exec_mountEnd_of_mount inReset job).symm.trans ends)
  have mounted := s.endMount_mounted
  obtain ⟨-, windows, -⟩ := s.remounted_others
  simp only [mounted.page, mounted.record, mounted.census, mounted.windows, mounted.recovered]
  exact ⟨State.remounted_backing_iff_group noEpoch, fun r g q i => State.remounted_record_of_backing,
    State.remounted_isLive_iff_backing, State.remounted_isRetained_iff_group noEpoch, fun g h => State.remounted_header,
    State.remounted_censusExact.1, State.mem_census_remounted_iff noEpoch,
    windows.trans (mountedWindows_eq_layoutOf _), State.remounted_recovered_iff noEpoch⟩

end Sys2Proof.Machine
end

section
/-!
SUPPORT. O38: the power-fail commands, and how a suspended job goes on (R96 to R98).
-/

namespace Sys2Proof.Machine

/-! ## The HOLD flag (R96) -/

theorem State.holdDue_iff (s : State) :
    s.holdDue = true ↔ s.pfw = true ∧ s.op = none ∧ s.store ≠ .mounting ∧ s.inReset = false := by
  simp only [State.holdDue, Bool.and_eq_true, Option.isNone_iff_eq_none, bne_iff_ne, ne_eq, Bool.not_eq_true',
    and_assoc]

theorem exec_holdTakesEffect_eq (s : State) :
    exec .holdTakesEffect s = .next (if s.holdDue then { s with hold := true } else s) :=
  (apply_ite Host.Outcome.next _ _ _).symm

/-! ## The resumption (R98) -/

section
variable {s : State}

/-- With an operation in progress, or no job to go on with, nothing is resumed. -/
theorem State.resume_of_nothing (h : s.op ≠ none ∨ s.job = .idle ∨ s.job = .mount) : s.resume = s := by
  unfold State.resume
  cases hop : s.op with
  | some _ => rfl
  | none =>
    rcases h with busy | idle | mount
    · exact absurd hop busy
    · rw [idle]
    · rw [mount]

theorem State.resume_of_commit {p : Port} {token : Token} {st : Staging} {run : ImageRun} (op : s.op = none)
    (job : s.job = .commit p token st run) :
    s.resume = s.programNext run fun u => u.commitMediaFailure p token := by simp only [State.resume, op, job]

theorem State.resume_of_relocation {target : Sequence} {run : ImageRun} (op : s.op = none)
    (job : s.job = .relocate target run) : s.resume = s.programNext run State.relocationMediaFailure := by
  simp only [State.resume, op, job]

theorem State.resume_of_erase {g : PageNo} (op : s.op = none) (job : s.job = .erase g) : s.resume = s.issueErase g := by
  simp only [State.resume, op, job]

theorem State.resume_of_format {step : FormatStep} {noted : List NotedErase} (op : s.op = none)
    (job : s.job = .format step noted) : s.resume = s.formatNext step noted := by simp only [State.resume, op, job]

/-- With PFW deasserted an erase is issued (R73). -/
theorem State.issueErase_of_pfw (pfw : s.pfw = false) (g : PageNo) :
    s.issueErase g = { s with op := some (.erase g) } := by
  rw [State.issueErase_changes, pfw]
  rfl

/-- The erase of the epoch page is issued in the step that the job has reached (R167). -/
theorem State.formatNext_eraseEpoch (pfw : s.pfw = false) {g : PageNo} {noted : List NotedErase}
    (job : s.job = .format (.eraseEpoch g) noted) :
    s.formatNext (.eraseEpoch g) noted = { s with op := some (.erase g) } := by
  rw [State.formatNext, ← job]
  exact State.issueErase_of_pfw pfw g

end

/-- Settles O38: the HOLD flag by `holdDue_iff`, the suspended jobs by the cases of `resume`. -/
theorem powerFailHolds : Obligations.PowerFailHolds := by
  intro s
  refine ⟨rfl, ?_, fun nothing => ?_, fun op => ?_⟩
  · rw [exec_holdTakesEffect_eq]
    simp only [State.holdDue_iff]
  · exact congrArg _ (State.resume_of_nothing (s := { s with pfw := false, hold := false }) nothing)
  · intro u
    have resumes {t : State} (h : u.resume = t) : exec .pfwDeassert s = .next t := congrArg _ h
    refine ⟨fun g job => resumes ?_, fun p token staging run image job next => resumes ?_,
      fun target run image job next => resumes ?_, fun q failures noted job => resumes ?_,
      fun next epochPage noted job => resumes ?_, fun g noted job => resumes ?_⟩
    · exact (State.resume_of_erase (s := u) op job).trans (State.issueErase_of_pfw rfl g)
    · exact (State.resume_of_commit (s := u) op job).trans (u.commitNext_eq p token next)
    · exact (State.resume_of_relocation (s := u) op job).trans (u.relocationNext_eq next)
    · exact State.resume_of_format (s := u) op job
    · exact State.resume_of_format (s := u) op job
    · exact (State.resume_of_format (s := u) op job).trans (State.formatNext_eraseEpoch rfl job)

end Sys2Proof.Machine
end

section
/-!
SUPPORT. O58: the state at the release from device reset (Table 19, R83).
-/

namespace Sys2Proof.Machine

/-! ## Table 19, table by table -/

theorem State.port_reset (p : Port) : State.reset.port p = .reset false := Table.get_fill _ p

theorem State.record_reset (r : RecordNo) : State.reset.record r = .unwritten := Table.get_fill _ r

theorem State.lease_reset (w : WindowNo) : State.reset.lease w = .free := Table.get_fill _ w

theorem State.page_reset (g : PageNo) : State.reset.page g = .stale := Table.get_fill _ g

/-! ## The invariants at the release -/

theorem State.reset_noticesBounded : State.reset.NoticesBounded := fun p => by
  rw [State.port_reset]
  exact Nat.zero_le 16

theorem State.reset_stagingBounded : State.reset.StagingBounded := fun p => by
  rw [State.port_reset]
  exact Staging.bounded_nil

theorem State.reset_leasesWellShaped : State.reset.LeasesWellShaped := fun w => by
  rw [State.lease_reset]
  exact LeaseState.wellShaped_free

theorem State.reset_storeConsistent : State.reset.StoreConsistent := ⟨nofun, fun _ => rfl, nofun⟩

/-- No port has a commit queued or running (R37, R50). -/
theorem State.reset_queueConsistent : State.reset.QueueConsistent := by
  refine State.QueueFits.consistent ⟨fun p => ?_, fun _ => rfl⟩
  rw [State.port_reset]
  exact (PortState.txnFits_of_free (.inl rfl)).mpr ⟨rfl, rfl⟩

/-- The list of an UNWRITTEN layout record is empty, and so is the Window Table (R7, R102). -/
theorem State.reset_layoutConsistent : State.reset.LayoutConsistent := by
  refine ⟨?_, Layout.valid_empty, nofun, trivial⟩
  rw [State.record_reset]
  rfl

theorem State.reset_leasesFollowPolicy : State.reset.LeasesFollowPolicy := by
  refine ⟨fun w held => ?_, fun _ w => ?_⟩
  · rw [State.lease_reset] at held
    cases held
  · rw [State.lease_reset]
    rfl

/-- The Directory is that of a part in device reset, and the mount has no page operation (R82, R83). -/
theorem State.reset_directoryConsistent : State.reset.DirectoryConsistent := by
  have lost := (State.reset.lost_directory .blank).tables
  have tables : State.reset.TablesFit := lost.congr rfl rfl rfl rfl rfl
  refine tables.withJob ⟨rfl, fun g pending => ?_⟩
  rw [State.page_reset] at pending
  cases pending

/-- Settles O58: the tables row by row, and each invariant by its lemma. -/
theorem resetMeetsInvariants : Obligations.ResetMeetsInvariants := by
  have port (p : Port) : (State.reset.port p).txn = .none ∧ (State.reset.port p).staging = .records []
      ∧ (State.reset.port p).tokenCounter = 0 ∧ (State.reset.port p).lastOutcome = ⟨none, .none, none⟩
      ∧ (State.reset.port p).holder = .empty ∧ (State.reset.port p).notices = []
      ∧ (State.reset.port p).controller = .idle ∧ ∀ a, (State.reset.port p).watch.get a = false := by
    rw [State.port_reset]
    exact ⟨rfl, rfl, rfl, rfl, rfl, rfl, rfl, Table.get_fill _⟩
  exact ⟨port, State.record_reset, Table.get_fill _, State.lease_reset, rfl, State.page_reset, rfl, rfl, rfl, rfl, rfl,
    rfl, rfl, rfl, rfl, State.reset_noticesBounded, State.reset_stagingBounded, nofun, State.reset_leasesWellShaped,
    State.reset_storeConsistent, State.reset_queueConsistent, State.reset_layoutConsistent,
    State.reset_leasesFollowPolicy, State.reset_directoryConsistent⟩

end Sys2Proof.Machine
end

section
/-! SUPPORT. O53: the store state, device reset and the job through the commands of ports and timebase (R82, R164). -/

namespace Sys2Proof.Machine

section
variable {s t : State}

/-! ## What the invariant rests on -/

/-- A change that leaves device reset, the store state and the job. -/
theorem State.StoreConsistent.of_same (h : s.StoreConsistent) (inReset : t.inReset = s.inReset)
    (store : t.store = s.store) (job : t.job = s.job) : t.StoreConsistent := by
  unfold State.StoreConsistent
  rw [inReset, store, job]
  exact h

/-- A job runs only out of device reset (R82). -/
theorem State.StoreConsistent.inReset_of_job (h : s.StoreConsistent) (busy : s.job ≠ .idle) : s.inReset = false :=
  Bool.eq_false_iff.mpr fun inReset => busy (h.1 inReset).2

/-- A job that rests on no store state: any but a mount and a FORMAT job. -/
def Job.Unbound (j : Job) : Prop := j ≠ .mount ∧ ∀ step noted, j ≠ .format step noted

theorem State.StoreConsistent.of_unbound (inReset : s.inReset = false) (job : s.job.Unbound) : s.StoreConsistent :=
  ⟨fun h => absurd (inReset.symm.trans h) Bool.false_ne_true, fun h => absurd h job.1,
    fun _ _ h => absurd h (job.2 _ _)⟩

/-- A store that is FORMATTING may have any job but a mount. -/
theorem State.StoreConsistent.of_formatting (inReset : s.inReset = false) (store : s.store = .formatting)
    (job : s.job ≠ .mount) : s.StoreConsistent :=
  ⟨fun h => absurd (inReset.symm.trans h) Bool.false_ne_true, fun h => absurd h job, fun _ _ _ => store⟩

/-! ## Acts of the ports -/

/-- What the acts of ports may do to the store state: FORMAT alone changes it (R164). -/
structure State.StoreActs (s t : State) : Prop where
  inReset : t.inReset = s.inReset
  store : t.store = s.store ∨ t.store = .formatting

theorem State.StoreActs.refl (s : State) : s.StoreActs s := ⟨rfl, .inl rfl⟩

theorem State.StoreActs.trans {u : State} (h : s.StoreActs t) (k : t.StoreActs u) : s.StoreActs u :=
  ⟨k.inReset.trans h.inReset, k.store.elim (fun same => same ▸ h.store) .inr⟩

theorem State.Acts.storeActs {p : Port} (act : s.Acts p t) : s.StoreActs t := by
  cases act with
  | ports _ | leases _ | opens _ | stages _ _ | submits _ _ _ | discards _ _ _ _ => exact ⟨rfl, .inl rfl⟩
  | fails _ =>
    obtain ⟨_, _, changes⟩ := s.failQueued_changes _ _ none _
    rw [changes]
    exact ⟨rfl, .inl rfl⟩
  | formats =>
    rw [State.acceptFormat_eq]
    exact ⟨rfl, .inr rfl⟩

theorem State.Runs.storeActs {p : Port} (runs : s.Runs p t) : s.StoreActs t := by
  induction runs with
  | refl => exact .refl s
  | tail _ act ih => exact ih.trans act.storeActs

end

/-! ## Requests to a store that is MOUNTING (R161, Table 35) -/

/-- The body of a request that a MOUNTING store refuses. -/
def RefusedInMounting (body : State → State × ResultHolder) : Prop :=
  ∀ u : State, u.store = .mounting → (body u).1 = u

theorem readBody_refused (record : Byte) : RefusedInMounting (readBody record) := fun u mounting => by
  unfold readBody
  rw [mounting]
  cases recordArg record <;> rfl

theorem scanBody_refused (start scope direction : Byte) : RefusedInMounting (scanBody start scope direction) :=
  fun u mounting => by
    unfold scanBody
    rw [mounting]
    split <;> rfl

theorem windowsBody_refused : RefusedInMounting windowsBody := fun u mounting => by
  unfold windowsBody
  rw [mounting]
  rfl

theorem beginBody_refused (p : Port) : RefusedInMounting (beginBody p) := fun u mounting => by
  unfold beginBody
  rw [mounting]
  rfl

theorem stageBody_refused (p : Port) (e : StagedEntry) : RefusedInMounting (stageBody p e) := fun u mounting => by
  unfold stageBody
  rw [mounting]
  rfl

theorem stageWriteBody_refused (p : Port) (record presence : Byte) (expected : Version) (data : List Byte) :
    RefusedInMounting (stageWriteBody p record presence expected data) := fun u mounting => by
  unfold stageWriteBody
  split
  · split
    · exact stageBody_refused p _ u mounting
    · rfl
  · rfl

theorem stageDeleteBody_refused (p : Port) (record presence : Byte) (expected : Version) :
    RefusedInMounting (stageDeleteBody p record presence expected) := fun u mounting => by
  unfold stageDeleteBody
  split
  · exact stageBody_refused p _ u mounting
  · rfl

theorem dropBody_refused (p : Port) (record : Byte) : RefusedInMounting (dropBody p record) := fun u mounting => by
  unfold dropBody
  rw [mounting]
  cases recordArg record <;> rfl

theorem commitBody_refused (p : Port) : RefusedInMounting (commitBody p) := fun u mounting => by
  unfold commitBody
  rw [mounting]
  rfl

theorem abortBody_refused (p : Port) : RefusedInMounting (abortBody p) := fun u mounting => by
  unfold abortBody
  rw [mounting]
  rfl

/-- The lease requests share their gate (R107 to R110). -/
theorem leaseRequest_refused (window : Byte) (body : WindowNo → State → State × ResultHolder) :
    RefusedInMounting (leaseRequest window body) := fun u mounting => by
  unfold leaseRequest
  rw [mounting]
  cases windowArg window <;> rfl

theorem leaseBody_refused (p : Port) (window wait : Byte) : RefusedInMounting (leaseBody p window wait) :=
  fun u mounting => by
    unfold leaseBody
    split
    · rfl
    · exact leaseRequest_refused window _ u mounting

theorem watchBody_refused (p : Port) (area : Byte) : RefusedInMounting (watchBody p area) := fun u mounting => by
  unfold watchBody
  rw [mounting]
  cases areaArg area <;> rfl

theorem unwatchBody_refused (p : Port) (area : Byte) : RefusedInMounting (unwatchBody p area) := fun u mounting => by
  unfold unwatchBody
  rw [mounting]
  cases areaArg area <;> rfl

theorem defineBody_refused (p : Port) (window base size policy leaseTime : Byte) :
    RefusedInMounting (defineBody p window base size policy leaseTime) := fun u mounting => by
  unfold defineBody
  rw [mounting]
  split <;> rfl

theorem clearBody_refused (p : Port) (window : Byte) : RefusedInMounting (clearBody p window) := fun u mounting => by
  unfold clearBody
  rw [mounting]
  cases windowArg window <;> rfl

theorem formatBody_refused (p : Port) : RefusedInMounting (formatBody p) := fun u mounting => by
  unfold formatBody
  rw [mounting]
  rfl

section
variable {s t : State}

theorem State.resetTransaction_store (s : State) (p : Port) : (s.resetTransaction p).store = s.store := by
  unfold State.resetTransaction
  split
  · rfl
  · rfl
  · split
    · obtain ⟨_, _, failed⟩ := s.failQueued_changes _ .aborted none false
      rw [failed]
    · rfl
  · rfl

/-- PORT_RESET, which a MOUNTING store serves, leaves the store state (R157). -/
theorem portResetBody_store (s : State) (p : Port) : (portResetBody p s).1.store = s.store := by
  obtain ⟨_, _, passed⟩ := State.passOnAll_changes ((s.resetTransaction p).leaveWaitLists p) p
  rw [portResetBody_eq, passed]
  exact s.resetTransaction_store p

theorem mounting_of_serve {p : Port} {n : Nat} {body : State → State × ResultHolder}
    (kept : ∀ u : State, u.store = .mounting → (body u).1.store = .mounting) (mounting : s.store = .mounting)
    (h : serve p n body s = .next t) : t.store = .mounting := by
  unfold serve at h
  split at h <;> obtain rfl := Host.Outcome.next.inj h
  · exact mounting
  · exact kept _ mounting

theorem mounting_of_refused {p : Port} {n : Nat} {body : State → State × ResultHolder}
    (refused : RefusedInMounting body) (mounting : s.store = .mounting) (h : serve p n body s = .next t) :
    t.store = .mounting :=
  mounting_of_serve (fun u hu => by rw [refused u hu, hu]) mounting h

theorem mounting_of_link {p : Port} {f : State → PortState → PortState} (mounting : s.store = .mounting)
    (h : (.next (s.atLink p f) : Host.Outcome State Fault Refusal) = .next t) : t.store = .mounting := by
  obtain rfl := Host.Outcome.next.inj h
  rw [State.atLink_changes]
  split <;> exact mounting

/-- No command of a port takes the store out of MOUNTING (R93, R161). -/
theorem exec_port_mounting {c : Instr} (hc : (portOf c).isSome = true) (mounting : s.store = .mounting)
    (h : exec c s = .next t) : t.store = .mounting := by
  cases c with
  | status p =>
    exact mounting_of_refused (body := fun s => (s, .result .ok (s.statusPayload p))) (fun _ _ => rfl) mounting h
  | read p r => exact mounting_of_refused (readBody_refused r) mounting h
  | scan p a b d => exact mounting_of_refused (scanBody_refused a b d) mounting h
  | windows p => exact mounting_of_refused windowsBody_refused mounting h
  | beginTxn p => exact mounting_of_refused (beginBody_refused p) mounting h
  | stageWrite p r e v d => exact mounting_of_refused (stageWriteBody_refused p r e v d) mounting h
  | stageDelete p r e v => exact mounting_of_refused (stageDeleteBody_refused p r e v) mounting h
  | dropEntry p r => exact mounting_of_refused (dropBody_refused p r) mounting h
  | commit p => exact mounting_of_refused (commitBody_refused p) mounting h
  | abort p => exact mounting_of_refused (abortBody_refused p) mounting h
  | lease p w x => exact mounting_of_refused (leaseBody_refused p w x) mounting h
  | renew p w => exact mounting_of_refused (leaseRequest_refused w _) mounting h
  | release p w => exact mounting_of_refused (leaseRequest_refused w _) mounting h
  | breakLease p w => exact mounting_of_refused (leaseRequest_refused w _) mounting h
  | watch p a => exact mounting_of_refused (watchBody_refused p a) mounting h
  | unwatch p a => exact mounting_of_refused (unwatchBody_refused p a) mounting h
  | defineWindow p w b z x y => exact mounting_of_refused (defineBody_refused p w b z x y) mounting h
  | clearWindow p w => exact mounting_of_refused (clearBody_refused p w) mounting h
  | format p => exact mounting_of_refused (formatBody_refused p) mounting h
  | portReset p => exact mounting_of_serve (fun u hu => (portResetBody_store u p).trans hu) mounting h
  | badFrame _ _ | truncated _ _ | frameTimeout _ _ | badLeadByte _ _ | resultFrame _ _ | scanBlockDelivered _ _
  | noticeFrame _ _ | noticeEntryDelivered _ _ => exact mounting_of_link mounting h
  | deviceReset _ | resetRelease _ _ _ | mountEnd | pfwAssert | holdTakesEffect | pfwDeassert | leaseTick
  | leaseExpiry _ | jobChoice _ | pageProgramVerdict _ | pageEraseVerdict _ | formatJobBegin _ => cases hc

/-! ## The commands that are no steps of the engine -/

/-- A command of a port keeps a mount in MOUNTING and a FORMAT job in FORMATTING, and is unheeded in device reset. -/
theorem State.StoreConsistent.exec_port {c : Instr} {p : Port} (hs : s.StoreConsistent) (hc : portOf c = some p)
    (h : exec c s = .next t) : t.StoreConsistent := by
  have port : (portOf c).isSome = true := Option.isSome_of_eq_some hc
  have job : t.job = s.job := (exec_storeKept (.inl port) h).job
  have acts := State.Runs.storeActs (exec_runs hc h)
  refine ⟨fun inReset => ?_, fun mounts => ?_, fun step noted formats => ?_⟩
  · have still := exec_port_in_reset port (acts.inReset.symm.trans inReset)
    obtain rfl := Host.Outcome.next.inj (still.symm.trans h)
    exact hs.1 inReset
  · exact exec_port_mounting port (hs.2.1 (job.symm.trans mounts)) h
  · exact acts.store.elim (fun same => same.trans (hs.2.2 step noted (job.symm.trans formats))) id

/-- A tick changes ports and leases alone (R105, R114). -/
theorem State.StoreConsistent.tick (hs : s.StoreConsistent) : s.tick.StoreConsistent := by
  obtain ⟨_, _, ticked⟩ := s.tick_changes
  rw [ticked]
  exact hs.of_same rfl rfl rfl

theorem State.StoreConsistent.exec_quiet {c : Instr} (hs : s.StoreConsistent) (hc : LeavesEngine c)
    (h : exec c s = .next t) : t.StoreConsistent := by
  rcases hc with port | rfl | ⟨w, rfl⟩ | rfl | rfl
  · obtain ⟨p, hp⟩ := Option.isSome_iff_exists.mp port
    exact hs.exec_port hp h
  · simp only [exec, execLeaseTick] at h
    split at h <;> obtain rfl := Host.Outcome.next.inj h
    · exact hs
    · exact hs.tick
  · simp only [exec, execLeaseExpiry] at h
    split at h <;> obtain rfl := Host.Outcome.next.inj h
    · exact hs.tick
    · exact hs
  · obtain rfl := Host.Outcome.next.inj h
    exact hs.of_same rfl rfl rfl
  · obtain rfl := Host.Outcome.next.inj ((exec_holdTakesEffect_eq s).symm.trans h)
    split
    · exact hs.of_same rfl rfl rfl
    · exact hs

/-- Device reset leaves the part MOUNTING with no job (R82). -/
theorem exec_deviceReset_storeConsistent {cut : CutOff} (h : exec (.deviceReset cut) s = .next t) :
    t.StoreConsistent := by
  obtain rfl := exec_deviceReset h
  exact ⟨fun _ => ⟨rfl, rfl⟩, nofun, nofun⟩

/-- The release begins the mount of a MOUNTING store (R83). -/
theorem State.StoreConsistent.exec_resetRelease {x y z : Bool} (hs : s.StoreConsistent)
    (h : exec (.resetRelease x y z) s = .next t) : t.StoreConsistent := by
  simp only [exec, execResetRelease] at h
  split at h <;> obtain rfl := Host.Outcome.next.inj h
  · exact ⟨nofun, fun _ => rfl, nofun⟩
  · exact hs

end

end Sys2Proof.Machine
end

section
/-!
SUPPORT. O53: the store state and the job through the operations of the engine (R69 to R78, R93, R98, R165 to R168).
-/

namespace Sys2Proof.Machine

section
variable {s t : State}

/-! ## A job that ends or goes on -/

theorem Job.unbound_idle : Job.idle.Unbound := ⟨nofun, nofun⟩

theorem Job.unbound_commit (p : Port) (token : Token) (st : Staging) (run : ImageRun) :
    (Job.commit p token st run).Unbound := ⟨nofun, nofun⟩

theorem Job.unbound_relocate (target : Sequence) (run : ImageRun) : (Job.relocate target run).Unbound :=
  ⟨nofun, nofun⟩

theorem State.StoreConsistent.commitMediaFailure (out : s.inReset = false) (p : Port) (token : Token) :
    (s.commitMediaFailure p token).StoreConsistent := by
  obtain ⟨_, _, _, _, _, failed⟩ := s.commitMediaFailure_changes p token
  rw [failed]
  exact .of_unbound out Job.unbound_idle

theorem State.StoreConsistent.relocationMediaFailure (out : s.inReset = false) :
    s.relocationMediaFailure.StoreConsistent := by
  obtain ⟨_, _, _, _, _, failed⟩ := s.relocationMediaFailure_changes
  rw [failed]
  exact .of_unbound out Job.unbound_idle

/-- A run is suspended, gives up, or goes on with its job. -/
theorem State.StoreConsistent.programNext (h : s.StoreConsistent) (run : ImageRun) {fail : State → State}
    (givesUp : (fail { s with op := none }).StoreConsistent) : (s.programNext run fail).StoreConsistent := by
  rcases s.programNext_cases run fail with next | ⟨-, -, next⟩ | ⟨i, g, -, -, -, next⟩ <;> rw [next]
  · exact h.of_same rfl rfl rfl
  · exact givesUp
  · exact h.of_same rfl rfl rfl

theorem State.StoreConsistent.commitNext (out : s.inReset = false) (job : s.job.Unbound) (run : ImageRun) (p : Port)
    (token : Token) : (s.programNext run fun u => u.commitMediaFailure p token).StoreConsistent :=
  (State.StoreConsistent.of_unbound out job).programNext run (.commitMediaFailure out p token)

theorem State.StoreConsistent.relocationNext (out : s.inReset = false) (job : s.job.Unbound) (run : ImageRun) :
    (s.programNext run State.relocationMediaFailure).StoreConsistent :=
  (State.StoreConsistent.of_unbound out job).programNext run (.relocationMediaFailure out)

/-- A COMMIT job goes on with the next program of a run. -/
theorem State.StoreConsistent.commitGoesOn (out : s.inReset = false) (p : Port) (token : Token) (st : Staging)
    (run : ImageRun) :
    (({ s with job := .commit p token st run } : State).programNext run
      fun u => u.commitMediaFailure p token).StoreConsistent :=
  .commitNext (s := { s with job := .commit p token st run }) out (Job.unbound_commit p token st run) run p token

theorem State.StoreConsistent.relocationGoesOn (out : s.inReset = false) (target : Sequence) (run : ImageRun) :
    (({ s with job := .relocate target run } : State).programNext run State.relocationMediaFailure).StoreConsistent :=
  .relocationNext (s := { s with job := .relocate target run }) out (Job.unbound_relocate target run) run

theorem State.StoreConsistent.endJob (out : s.inReset = false) : s.endJob.StoreConsistent := by
  obtain ⟨_, _, _, _, ended⟩ := s.endJob_changes
  rw [ended]
  exact .of_unbound out Job.unbound_idle

/-! ## The job choice (R55, R69 to R75) -/

theorem State.StoreConsistent.enterReadOnly (out : s.inReset = false) (job : s.job.Unbound) (r : ReadOnlyReason) :
    (s.enterReadOnly r).StoreConsistent := by
  obtain ⟨_, _, entered⟩ := s.enterReadOnly_changes r
  rw [entered]
  exact .of_unbound out job

theorem State.StoreConsistent.startCommit (out : s.inReset = false) (job : s.job.Unbound) (e : QueueEntry) :
    (s.startCommit e).StoreConsistent := by
  rw [State.startCommit_eq]
  split
  · exact .enterReadOnly out job .sequence
  · exact .commitNext (s := s.commitBegun e) out (Job.unbound_commit _ _ _ _) _ _ _

theorem State.StoreConsistent.startRelocation (out : s.inReset = false) (job : s.job.Unbound) (e : CensusEntry) :
    (s.startRelocation e).StoreConsistent := by
  rw [State.startRelocation_eq]
  split
  · exact .enterReadOnly out job .sequence
  · exact .relocationNext (s := s.relocationBegun e) out (Job.unbound_relocate _ _) _

theorem State.Reclaims.storeConsistent (h : s.Reclaims t) (out : s.inReset = false) (job : s.job.Unbound) :
    t.StoreConsistent := by
  cases h with
  | erase _ =>
    rw [State.startErase_changes]
    exact .of_unbound out ⟨nofun, nofun⟩
  | relocate _ => exact .startRelocation out job _
  | nothing => exact .of_unbound out Job.unbound_idle
  | space => exact .enterReadOnly out job .space

theorem State.TakesUp.storeConsistent {l : List QueueEntry} (h : State.TakesUp s l t) (out : s.inReset = false)
    (job : s.job.Unbound) : t.StoreConsistent := by
  induction h with
  | reclaims h => exact h.storeConsistent out job
  | starts _ => exact .startCommit out job _
  | @fails s t e rest r record _ ih =>
    obtain ⟨_, _, failed⟩ := s.failQueued_changes e r record true
    rw [failed] at ih
    exact ih out job

/-! ## The format (R165 to R168) -/

theorem State.StoreConsistent.formatEnd (out : s.inReset = false) (noted : List NotedErase) :
    (s.formatEnd noted).StoreConsistent := by
  obtain ⟨_, _, _, _, ended⟩ := s.formatEnd_changes noted
  rw [ended]
  exact .of_unbound out Job.unbound_idle

theorem State.StoreConsistent.inFormat (out : s.inReset = false) (store : s.store = .formatting) (step : FormatStep)
    (noted : List NotedErase) (g : PageNo) : ((s.inFormat step noted).issueErase g).StoreConsistent := by
  rw [State.issueErase_changes]
  exact .of_formatting out store nofun

theorem State.Sweeps.storeConsistent {next : Nat} {epochPage : Option PageNo} {noted : List NotedErase}
    (h : s.Sweeps next epochPage noted t) (out : s.inReset = false) (store : s.store = .formatting) :
    t.StoreConsistent := by
  cases h with
  | erase _ => exact .inFormat out store _ _ _
  | eraseEpoch _ _ => exact .inFormat out store _ _ _
  | ends _ _ => exact .formatEnd out noted

theorem State.AttemptsEpoch.storeConsistent {q : Sequence} {failures : Nat} {noted : List NotedErase}
    (h : s.AttemptsEpoch q failures noted t) (out : s.inReset = false) (store : s.store = .formatting) :
    t.StoreConsistent := by
  cases h with
  | givesUp sweeps => exact sweeps.storeConsistent out store
  | waits => exact .of_formatting out store nofun
  | programs _ => exact .of_formatting out store nofun
  | erases _ => exact .of_formatting out store nofun
  | noPage sweeps => exact sweeps.storeConsistent out store

theorem State.StoreConsistent.formatNext (out : s.inReset = false) (store : s.store = .formatting) (step : FormatStep)
    (noted : List NotedErase) : (s.formatNext step noted).StoreConsistent := by
  cases step with
  | epoch q failures => exact (s.epochAttempt_attempts q failures noted).storeConsistent out store
  | sweep next epochPage => exact (s.sweep_sweeps next epochPage noted).storeConsistent out store
  | eraseEpoch g => exact .inFormat out store _ _ _

theorem State.StoreConsistent.beginFormat (out : s.inReset = false) (store : s.store = .formatting) :
    s.beginFormat.StoreConsistent := by
  unfold State.beginFormat
  split
  · exact (s.sweep_sweeps 0 none []).storeConsistent out store
  · exact (State.epochAttempt_attempts _ _ 0 []).storeConsistent out store

/-! ## The verdicts and the resumption -/

/-- A FORMAT job runs in a FORMATTING store, out of device reset. -/
theorem State.StoreConsistent.of_format (h : s.StoreConsistent) {step : FormatStep} {noted : List NotedErase}
    (job : s.job = .format step noted) : s.inReset = false ∧ s.store = .formatting :=
  ⟨h.inReset_of_job (job ▸ nofun), h.2.2 step noted job⟩

theorem State.StoreConsistent.afterPass (h : s.StoreConsistent) (g : PageNo) : (s.afterPass g).StoreConsistent := by
  unfold State.afterPass
  split
  · next p token st run job =>
    have out := h.inReset_of_job (job ▸ nofun)
    unfold State.commitPassed
    split
    · obtain ⟨_, _, _, _, _, _, _, point⟩ := s.commitPoint_changes p token st (run.verify g)
      rw [point]
      exact .of_unbound out Job.unbound_idle
    · exact .commitGoesOn out _ _ _ _
  · next target run job =>
    have out := h.inReset_of_job (job ▸ nofun)
    unfold State.relocationPassed
    split
    · obtain ⟨_, _, _, _, _, _, point⟩ := s.relocationPoint_changes (run.verify g)
      rw [point]
      exact .of_unbound out Job.unbound_idle
    · exact .relocationGoesOn out _ _
  · next job =>
    obtain ⟨out, store⟩ := h.of_format job
    exact (s.sweep_sweeps _ _ _).storeConsistent out store
  all_goals exact h

theorem State.StoreConsistent.afterFail (h : s.StoreConsistent) : s.afterFail.StoreConsistent := by
  unfold State.afterFail
  split
  · next job =>
    have out := h.inReset_of_job (job ▸ nofun)
    unfold State.commitFailed
    split
    · exact .commitGoesOn out _ _ _ _
    · exact .commitMediaFailure out _ _
  · next job =>
    have out := h.inReset_of_job (job ▸ nofun)
    unfold State.relocationFailed
    split
    · exact .relocationGoesOn out _ _
    · exact .relocationMediaFailure out
  · next job =>
    obtain ⟨out, store⟩ := h.of_format job
    exact (s.epochAttempt_attempts _ _ _).storeConsistent out store
  all_goals exact h

theorem State.settleErase_inReset_store (s : State) (g : PageNo) (v : EraseVerdict) :
    (s.settleErase g v).inReset = s.inReset ∧ (s.settleErase g v).store = s.store := by cases v <;> exact ⟨rfl, rfl⟩

theorem State.StoreConsistent.afterErase (h : s.StoreConsistent) (g : PageNo) (v : EraseVerdict) :
    (s.afterErase g v).StoreConsistent := by
  obtain ⟨sameReset, sameStore⟩ := s.settleErase_inReset_store g v
  unfold State.afterErase
  split
  · next job => exact .endJob (sameReset.trans (h.inReset_of_job (job ▸ nofun)))
  · next job =>
    obtain ⟨out, store⟩ := h.of_format job
    exact (State.epochAttempt_attempts _ _ _ _).storeConsistent (sameReset.trans out) (sameStore.trans store)
  · next job =>
    obtain ⟨out, store⟩ := h.of_format job
    unfold State.sweepVerdict
    split
    · exact (s.sweep_sweeps _ _ _).storeConsistent out store
    · exact (State.sweep_sweeps _ _ _ _).storeConsistent (sameReset.trans out) (sameStore.trans store)
  · next job =>
    obtain ⟨out, -⟩ := h.of_format job
    exact .formatEnd (sameReset.trans out) _
  all_goals exact h

theorem State.StoreConsistent.resume (h : s.StoreConsistent) : s.resume.StoreConsistent := by
  unfold State.resume
  split
  · exact h
  · split
    · exact h
    · exact h
    · next job => exact h.programNext _ (.commitMediaFailure (h.inReset_of_job (job ▸ nofun)) _ _)
    · next job => exact h.programNext _ (.relocationMediaFailure (h.inReset_of_job (job ▸ nofun)))
    · rw [State.issueErase_changes]
      exact h.of_same rfl rfl rfl
    · next job =>
      obtain ⟨out, store⟩ := h.of_format job
      exact .formatNext out store _ _

/-! ## The end of a mount (R93) -/

/-- A mount ends with the engine free, or in a FORMATTING store whose format goes on (R89, R93). -/
theorem State.StoreConsistent.endMount (out : s.inReset = false) : (s.endMount s.verdicts).StoreConsistent := by
  obtain ⟨_, _, _, _, _, _, _, _, tables⟩ := s.remounted_changes
  have remounted : s.remounted.inReset = false := by rw [tables, out]
  cases he : epochPage (foundPages s.verdicts) with
  | none =>
    rw [State.endMount_of_no_epoch he]
    exact .of_unbound remounted Job.unbound_idle
  | some e =>
    rw [State.endMount_of_epoch he]
    cases s.remounted.sweepTarget 0 (some e) with
    | some g => exact .of_formatting remounted rfl nofun
    | none => exact .of_formatting remounted rfl nofun

/-! ## The commands -/

theorem exec_keepsStoreFit {c : Instr} (hs : s.StoreConsistent) (h : exec c s = .next t) : t.StoreConsistent := by
  rcases leavesEngine_or c with quiet | ⟨x, y, z, rfl⟩ | ⟨cut, rfl⟩ | rfl | rfl | ⟨b, rfl⟩
    | ⟨v, rfl⟩ | ⟨v, rfl⟩ | ⟨b, rfl⟩
  · exact hs.exec_quiet quiet h
  · exact hs.exec_resetRelease h
  · exact exec_deviceReset_storeConsistent h
  · rcases exec_mountEnd h with rfl | ⟨out, -, rfl⟩
    · exact hs
    · exact .endMount out
  · obtain rfl := exec_pfwDeassert h
    exact State.StoreConsistent.resume (s := { s with pfw := false, hold := false }) (hs.of_same rfl rfl rfl)
  · rcases exec_jobChoice h with rfl | ⟨out, -, idle, rfl⟩
    · exact hs.of_same rfl rfl rfl
    · exact (State.takeUp_takesUp _ s.queue).storeConsistent out (idle ▸ Job.unbound_idle)
  · rcases exec_pageProgramVerdict h with rfl | ⟨g, i, -, ⟨-, rfl⟩ | ⟨mark, -, rfl⟩⟩
    · exact hs
    · exact State.StoreConsistent.afterPass (s := s.programPassed g i) (hs.of_same rfl rfl rfl) g
    · exact State.StoreConsistent.afterFail (s := s.programFailed g mark) (hs.of_same rfl rfl rfl)
  · rcases exec_pageEraseVerdict h with rfl | ⟨g, -, rfl⟩
    · exact hs
    · exact State.StoreConsistent.afterErase (s := s.eraseDone g v) (hs.of_same rfl rfl rfl) g v
  · rcases exec_formatJobBegin h with rfl | ⟨out, store, -, rfl⟩
    · exact hs.of_same rfl rfl rfl
    · exact State.StoreConsistent.beginFormat (s := { s with pfw := s.pfw || b }) out store

end

/-- Settles O53: FORMAT, which a MOUNTING store refuses, is the one request that moves the store state; and each
operation of the engine leaves a FORMAT job in FORMATTING or a job that rests on no store state. -/
theorem stepsKeepStoreFit : Obligations.StepsKeepStoreFit := by
  intro s t hs h
  rcases step_eq_exec h with rfl | ⟨c, rest, -, h⟩
  · exact hs
  · exact exec_keepsStoreFit (s := { s with pending := rest }) hs h

end Sys2Proof.Machine
end

section
/-!
SUPPORT. O32: the notice slots that a response frame sends, and their delivery.
-/

namespace Sys2Proof.Machine

/-! ## The slot of a notice queue -/

@[simp] theorem NoticeBody.bytes_length (b : NoticeBody) : b.bytes.length = 11 := by
  cases b <;> rfl

/-- The head's slot, or the end entry, has thirteen bytes (R174). -/
theorem noticeContent_length (q : List Notice) : (noticeContent q).length = 13 := by
  cases q with
  | nil => rfl
  | cons n _ => simp [noticeContent, Notice.slot, withCheck]

theorem noticeSlot_carries (q : List Notice) : (noticeSlot q).Carries (noticeContent q) := by
  cases q with
  | nil => exact .inr (.inr (.inr rfl))
  | cons n _ => exact .inr (.inr (.inl rfl))

/-- On the NOTICE channel the slot of the queue as it stands begins (R134). -/
theorem State.beginNext_notice (s : State) (c : PortState) :
    s.beginNext .notice c = c.beginSlot .notice (noticeSlot c.notices) := by
  unfold State.beginNext
  cases c.notices <;> rfl

/-! ## A slot that ends with a check byte, from its first byte on -/

/-- The port has begun the slot of these bytes and is at the byte at a position of it. -/
def PortState.sending (c : PortState) (channel : Channel) (slot : Slot) (content : List Byte) (position : Nat) :
    PortState :=
  { c with
    controller := .response ⟨channel, slot, position, 0⟩
    line := { c.line with sent := c.line.sent ++ content.take (position + 1) } }

section
variable (s : State) {slot : Slot} {content : List Byte} (hs : slot.Carries content)
include hs

/-- At the check byte an acknowledge is a delivery, and no act of the frame (log entry 15). -/
theorem State.ackBytes_at_check {c : PortState} {channel : Channel} {k timer : Nat} (n : Nat)
    (hc : c.controller = .response ⟨channel, slot, k, timer⟩) (hk : k + 1 = content.length) : s.ackBytes n c = c := by
  have stays : s.ackByte c = c := by
    rcases hs with ⟨_, _, rfl⟩ | rfl | rfl | rfl <;> simp only [State.ackByte, hc, hk, lt_irrefl, if_false]
  induction n with
  | zero => rfl
  | succ m ih => rw [State.ackBytes, stays, ih]

/-- Acknowledges up to the check byte send the bytes of the slot in turn. -/
theorem State.ackBytes_beginSlot_of_lt (c : PortState) (channel : Channel) {n : Nat} (hn : n < content.length) :
    s.ackBytes n (c.beginSlot channel slot) = c.sending channel slot content n := by
  have first : [slot.byteAt 0] = content.take 1 := by
    obtain ⟨b, rest, rfl⟩ := List.exists_cons_of_length_pos (Nat.zero_lt_of_lt hn)
    rw [hs.byteAt]
    rfl
  cases n with
  | zero => rw [State.ackBytes, PortState.beginSlot, first, PortState.sending]
  | succ m =>
    rw [s.ackBytes_within m hs (c := c.beginSlot channel slot) rfl (by omega)]
    simp only [PortState.beginSlot, PortState.sending, first, List.append_assoc, Nat.zero_add, ← List.take_add,
      Nat.add_comm 1 (m + 1)]

/-- However many acknowledges come, the slot is sent up to its check byte at most (R151, log entry 15). -/
theorem State.ackBytes_beginSlot (c : PortState) (channel : Channel) {last : Nat} (hl : last + 1 = content.length)
    (n : Nat) : s.ackBytes n (c.beginSlot channel slot) = c.sending channel slot content (min n last) := by
  have cut : n = min n last + (n - last) := by omega
  conv_lhs => rw [cut]
  rw [s.ackBytes_add, s.ackBytes_beginSlot_of_lt hs c channel (by omega)]
  rcases Nat.le_total n last with short | long
  · rw [Nat.sub_eq_zero_of_le short, State.ackBytes]
  · rw [Nat.min_eq_right long]
    exact s.ackBytes_at_check hs _ rfl hl

end

/-- A notice slot begins and the host acknowledges `n` bytes of it (R134, R153). -/
theorem State.ackBytes_beginNext_notice (s : State) (n : Nat) (c : PortState) :
    s.ackBytes n (s.beginNext .notice c)
      = c.sending .notice (noticeSlot c.notices) (noticeContent c.notices) (min n 12) := by
  rw [s.beginNext_notice]
  exact s.ackBytes_beginSlot (noticeSlot_carries _) c .notice (noticeContent_length _).symm n

/-! ## The commands -/

/-- A start ends the open frame and leaves another open, in whose place a response may come (R144, R147). -/
theorem PortState.openFrame_eq (c : PortState) : ∃ k, c.openFrame = { c.endOpenFrame with controller := k } := by
  unfold PortState.openFrame PortState.linkStart PortState.endOpenFrame
  cases hc : c.controller with
  | idle => exact ⟨_, rfl⟩
  | response f => exact ⟨_, rfl⟩
  | request f =>
    cases hl : f.lead with
    | none => exact ⟨.request f, by simp [hl, ← hc]⟩
    | some b => exact ⟨.request .start, by simp [hl, badFrameResult, subReasonTruncated]⟩

/-- A NOTICE frame opens: its lead byte is acknowledged and the slot of the queue begins (R144, R153). -/
theorem State.respond_notice_opens (s : State) (c : PortState) (n : Nat) :
    s.respond .notice 0x81 (.opens n) c
      = { c.endOpenFrame with
          controller := .response ⟨.notice, noticeSlot c.endOpenFrame.notices, min n 12, 0⟩
          line := ⟨[true], (noticeContent c.endOpenFrame.notices).take (min n 12 + 1)⟩ } := by
  obtain ⟨k, hk⟩ := c.openFrame_eq
  have lead : s.leadByte 0x81 c.openFrame = s.beginNext .notice { c.openFrame with line := ⟨[true], []⟩ } := rfl
  rw [State.respond, lead, s.ackBytes_beginNext_notice, hk]
  rfl

/-- The host goes on in an open NOTICE frame whose slot is not taken: the slot of the queue begins (R134). -/
theorem exec_notice_goesOn {s : State} (hr : s.inReset = false) {p : Port} {k timer : Nat}
    (hc : (s.port p).controller = .response ⟨.notice, .notTaken, k, timer⟩) (n : Nat) :
    exec (.noticeFrame p (.goesOn n)) s
      = .next (s.onPort p fun c => c.sending .notice (noticeSlot c.notices) (noticeContent c.notices) (min n 12)) := by
  rw [exec_noticeFrame hr]
  refine congrArg _ (State.onPort_congr ?_)
  simp only [State.respond, hc, if_true]
  rw [s.goOn_of_notTaken hc, s.ackBytes_beginNext_notice]

/-- A delivery that leaves the NOTICE frame with its slot not taken is the same act whether the host goes on in it or after
it. -/
theorem exec_noticeEntryDelivered_becomes {s : State} (hr : s.inReset = false) {p : Port} {d : PortState → PortState}
    (hd : ∀ goesOn, s.deliverNotice goesOn (s.port p) = s.afterDelivery .notice goesOn (d (s.port p))) :
    let t := s.onPort p fun c => { d c with controller := .response ⟨.notice, .notTaken, 0, 0⟩ }
    exec (.noticeEntryDelivered p false) s = .next t
      ∧ exec (.noticeEntryDelivered p true) s = exec (.noticeFrame p (.goesOn 0)) t := by
  intro t
  have untaken : (t.port p).controller = .response ⟨.notice, .notTaken, 0, 0⟩ := by rw [State.port_onPort, if_pos rfl]
  refine ⟨?_, ?_⟩
  · rw [exec_noticeEntryDelivered hr]
    exact congrArg _ (State.onPort_congr (hd false))
  · rw [exec_noticeEntryDelivered hr, exec_notice_goesOn (s := t) hr untaken, State.onPort_onPort]
    refine congrArg _ (State.onPort_congr ((hd true).trans ?_))
    simp only [State.afterDelivery, if_true]
    rw [s.goOn_of_notTaken rfl]
    exact s.ackBytes_beginNext_notice 0 _

/-- Settles O32: the frame sends what the queue's slot carries up to its check byte; the delivery of an entry drops the
head, that of the end entry drops nothing, and both leave the next slot to be taken. -/
theorem noticeFrameSends : Obligations.NoticeFrameSends := by
  intro p s hr
  refine ⟨fun n => ⟨noticeContent_length _, ?_⟩, fun channel slot k timer hc => ⟨?_, ?_, ?_⟩⟩
  · rw [exec_noticeFrame hr]
    exact congrArg _ (State.onPort_congr (s.respond_notice_opens (s.port p) n))
  · rintro content rfl hk
    refine exec_noticeEntryDelivered_becomes hr (d := fun c => { c with notices := (s.port p).notices.drop 1 })
      fun goesOn => ?_
    simp only [State.deliverNotice, hc, ResponseFrame.atCheck, hk, beq_self_eq_true, if_true]
  · rintro content rfl hk
    refine exec_noticeEntryDelivered_becomes hr (d := fun c => { c with notices := (s.port p).notices }) fun goesOn => ?_
    simp only [State.deliverNotice, hc, ResponseFrame.atCheck, hk, beq_self_eq_true, if_true]
    rfl
  · rintro rfl rfl n
    exact exec_notice_goesOn hr hc n

end Sys2Proof.Machine
end

section
/-!
SUPPORT. O21 and O34: the watch set of a port, and the tail of its notice queue.
-/

namespace Sys2Proof.Machine

/-! ## WATCH and UNWATCH -/

theorem areaArg_of_large {b : Byte} (h : 16 < b.toNat) : areaArg b = none := dif_neg (by omega)

@[simp] theorem areaArg_byteOf (a : AreaNo) : areaArg (byteOf a.val) = some a := by
  have ha : (byteOf a.val).toNat = a.val := by
    have := a.isLt
    simp only [byteOf, BitVec.toNat_ofNat]
    omega
  simp [areaArg, ha]

/-- The watch set is changed at the port alone, and the answer is the set as it then stands (R139, R140). -/
theorem State.setWatch_answer (s : State) (p : Port) (n : Nat) (a : AreaNo) (on : Bool) :
    ((s.endFrame p n).setWatch p a on).1.answer p ((s.endFrame p n).setWatch p a on).2
      = ((s.endFrame p n).onPort p fun c => { c with watch := (s.port p).watch.set a on }).answer p
          (.result .ok (watchBytes ((s.port p).watch.set a on))) := by
  have watch : ((s.endFrame p n).port p).watch = (s.port p).watch := by rw [State.port_endFrame_self]; rfl
  rw [State.setWatch, watch]

/-- Settles O21: the checks of WATCH and UNWATCH in the order of their bodies, then the set. -/
theorem watchChangesSet : Obligations.WatchChangesSet := by
  intro p s hr
  refine ⟨fun b large => ⟨?_, ?_⟩, fun a => ⟨?_, ?_⟩⟩
  · exact serve_of_badArg hr fun u => by simp only [watchBody, areaArg_of_large large]
  · exact serve_of_badArg hr fun u => by simp only [unwatchBody, areaArg_of_large large]
  · refine serve_of_readGate hr (fun u => by simp only [watchBody, areaArg_byteOf]; rfl) ?_
    have windows : (s.endFrame p 3).windows = s.windows := rfl
    rw [windows]
    by_cases undefined : undefinedArea s.windows a = true
    · rw [if_pos undefined]
      exact (if_pos undefined).symm
    · rw [if_neg undefined, s.setWatch_answer]
      exact (if_neg undefined).symm
  · refine serve_of_readGate hr (fun u => by simp only [unwatchBody, areaArg_byteOf]; rfl) ?_
    have windows : (s.endFrame p 3).windows = s.windows := rfl
    have watch : ((s.endFrame p 3).port p).watch = (s.port p).watch := by rw [State.port_endFrame_self]; rfl
    rw [windows, watch]
    by_cases undefined : undefinedArea s.windows a = true
    · rw [if_pos undefined]
      exact (if_pos undefined).symm
    · rw [if_neg undefined]
      refine Eq.trans ?_ (if_neg undefined).symm
      by_cases watched : (s.port p).watch.get a = true
      · rw [if_pos watched, if_pos watched, s.setWatch_answer]
        rfl
      · rw [if_neg watched, if_neg watched]
        rfl

/-! ## The tail of a notice queue -/

/-- The loss mark is set at the tail and at no other entry (R127). -/
theorem markTail_append (init : List Notice) (tail : Notice) :
    markTail (init ++ [tail]) = init ++ [{ tail with lossMark := true }] := by
  induction init with
  | nil => rfl
  | cons n rest ih =>
    cases rest with
    | nil => rfl
    | cons m rest => exact congrArg (n :: ·) ih

/-- Settles O34: an append by the room in the queue, and NOTIFY by whether the queue is empty. -/
theorem noticesAppend : Obligations.NoticesAppend := by
  refine ⟨fun s p body => rfl, appendNotice_of_room, fun body init tail full => ?_, fun s p => ?_⟩
  · rw [appendNotice_of_full _ _ (by simpa using full), markTail_append]
  · simp [State.notifyAsserted]

end Sys2Proof.Machine
end

section
/-!
SUPPORT. O60: what a command leaves of the link, the results and the service flag of each port (R144, R149, R157, R163).
-/

namespace Sys2Proof.Machine

/-! ## One port's own -/

/-- Port `d` has the Frame Controller, the line, the token counter and the result holder of port `c`, but for the end of an
area scan (R17). -/
structure PortState.KeepsLink (c d : PortState) : Prop where
  controller : d.controller = c.controller
  line : d.line = c.line
  tokenCounter : d.tokenCounter = c.tokenCounter
  holder : d.holder = c.holder ∨ d.holder = c.endAreaScan.holder

theorem PortState.KeepsLink.refl (c : PortState) : c.KeepsLink c := ⟨rfl, rfl, rfl, .inl rfl⟩

/-- The end of the area scans rests on the holders alone. -/
theorem PortState.endAreaScan_holder_congr {c d : PortState} (h : d.holder = c.holder) :
    d.endAreaScan.holder = c.endAreaScan.holder := by
  rw [PortState.endAreaScan_holder, PortState.endAreaScan_holder, h]

/-- A scan that has ended stays as it is when the area scans end once more (R17). -/
theorem PortState.endAreaScan_idem (c : PortState) : c.endAreaScan.endAreaScan.holder = c.endAreaScan.holder := by
  simp only [PortState.endAreaScan_holder]
  cases c.holder with
  | empty => rfl
  | result _ _ => rfl
  | scan cursor =>
    simp only [ScanCursor.endLayout_eq]
    by_cases ends : cursor.scope = .area ∧ cursor.endReason = none <;> simp [ends]

theorem PortState.KeepsLink.trans {c d e : PortState} (h : c.KeepsLink d) (k : d.KeepsLink e) : c.KeepsLink e where
  controller := k.controller.trans h.controller
  line := k.line.trans h.line
  tokenCounter := k.tokenCounter.trans h.tokenCounter
  holder := by
    rcases k.holder with same | ended
    · exact same ▸ h.holder
    · refine .inr (ended.trans ?_)
      rcases h.holder with same' | ended'
      · exact PortState.endAreaScan_holder_congr same'
      · exact (PortState.endAreaScan_holder_congr ended').trans c.endAreaScan_idem

/-- The exception of R17 in the terms of the statement. -/
theorem PortState.KeepsLink.holder_or {c d : PortState} (h : c.KeepsLink d) :
    d.holder = c.holder ∨ ∃ cursor, c.holder = .scan cursor ∧ cursor.scope = .area ∧ cursor.endReason = none
      ∧ d.holder = .scan { cursor with endReason := some .layout } := by
  rcases h.holder with same | ended
  · exact .inl same
  · rw [ended, PortState.endAreaScan_eq]
    cases c.holder with
    | empty => exact .inl rfl
    | result _ _ => exact .inl rfl
    | scan cursor =>
      by_cases area : cursor.scope = .area ∧ cursor.endReason = none
      · exact .inr ⟨cursor, rfl, area.1, area.2, by simp only [if_pos area]⟩
      · exact .inl (by simp only [if_neg area])

/-- Port `d` has the service flag of port `c`, and the link and the result if the port is not the command's `own`. -/
structure PortState.Spares (own : Prop) (c d : PortState) : Prop where
  service : d.service = c.service
  link : own ∨ c.KeepsLink d

theorem PortState.Spares.refl (own : Prop) (c : PortState) : c.Spares own c := ⟨rfl, .inr (.refl c)⟩

theorem PortState.Spares.trans {own : Prop} {c d e : PortState} (h : c.Spares own d) (k : d.Spares own e) :
    c.Spares own e := by
  refine ⟨k.service.trans h.service, ?_⟩
  rcases h.link with mine | first
  · exact .inl mine
  · exact k.link.imp_right first.trans

/-! ## Every port -/

/-- Each port has its service flag in `t` as in `s`, and each but `own` its link and result. -/
def State.SparesPorts (own : Option Port) (s t : State) : Prop :=
  ∀ q, (s.port q).Spares (own = some q) (t.port q)

section
variable {own : Option Port}

theorem State.SparesPorts.refl (s : State) : s.SparesPorts own s := fun _ => .refl _ _

theorem State.SparesPorts.trans {s t u : State} (h : s.SparesPorts own t) (k : t.SparesPorts own u) :
    s.SparesPorts own u := fun q => (h q).trans (k q)

/-- What changes no port spares every port. -/
theorem State.SparesPorts.of_ports {s t : State} (ports : t.ports = s.ports) : s.SparesPorts own t := fun q => by
  rw [State.port, State.port, ports]
  exact .refl _ _

/-- The same before what spares the ports. -/
theorem State.SparesPorts.after {s t u : State} (h : t.SparesPorts own u) (ports : t.ports = s.ports) :
    s.SparesPorts own u := (State.SparesPorts.of_ports ports).trans h

theorem State.SparesPorts.foldl {α : Type} {f : State → α → State} (h : ∀ (u : State) a, u.SparesPorts own (f u a))
    (l : List α) (s : State) : s.SparesPorts own (l.foldl f s) := by
  induction l generalizing s with
  | nil => exact .refl s
  | cons a rest ih => exact (h s a).trans (ih (f s a))

variable (s : State)

theorem State.onPort_spares {p : Port} {f : PortState → PortState} (h : (s.port p).Spares (own = some p) (f (s.port p))) :
    s.SparesPorts own (s.onPort p f) := fun q => by
  rw [State.port_onPort]
  split
  · next e =>
    subst e
    exact h
  · exact .refl _ _

/-- A change of a port in what is no part of its link. -/
theorem State.onPort_spares_of_link {p : Port} {f : PortState → PortState}
    (service : (f (s.port p)).service = (s.port p).service) (h : (s.port p).KeepsLink (f (s.port p))) :
    s.SparesPorts own (s.onPort p f) := s.onPort_spares ⟨service, .inr h⟩

/-- A change of the command's own port that leaves its service flag. -/
theorem State.onPort_spares_own {p : Port} {f : PortState → PortState}
    (service : (f (s.port p)).service = (s.port p).service) : s.SparesPorts (some p) (s.onPort p f) :=
  s.onPort_spares ⟨service, .inl rfl⟩

theorem State.onPorts_spares {f : PortState → PortState} (h : ∀ c : PortState, c.Spares False (f c)) :
    s.SparesPorts own (s.onPorts f) := fun q => by
  rw [State.port_onPorts]
  exact ⟨(h _).service, .inr ((h _).link.resolve_left id)⟩

/-! ## Notices and leases -/

theorem State.notify_spares (p : Port) (b : NoticeBody) : s.SparesPorts own (s.notify p b) :=
  s.onPort_spares_of_link rfl ⟨rfl, rfl, rfl, .inl rfl⟩

theorem State.notifyAll_spares (b : NoticeBody) : s.SparesPorts own (s.notifyAll b) :=
  s.onPorts_spares fun _ => ⟨rfl, .inr ⟨rfl, rfl, rfl, .inl rfl⟩⟩

theorem State.loadTimer_spares (w : WindowNo) : s.SparesPorts own (s.loadTimer w) := by
  obtain ⟨_, h⟩ := s.loadTimer_changes w
  exact .of_ports (by rw [h])

theorem State.passOn_spares (w : WindowNo) : s.SparesPorts own (s.passOn w) := by
  rw [State.passOn_eq]
  exact (State.SparesPorts.foldl (fun (u : State) (x : Port × NoticeBody) => u.notify_spares x.1 x.2) _ _).after rfl

theorem State.expire_spares (w : WindowNo) : s.SparesPorts own (s.expire w) := by
  unfold State.expire
  split
  · exact (s.notify_spares _ _).trans (State.passOn_spares _ w)
  · exact .refl s

theorem State.tick_spares : s.SparesPorts own s.tick := by
  refine .foldl (fun u w => ?_) allWindows s
  unfold State.tickWindow
  split
  · split
    · exact .refl u
    · split
      · exact u.expire_spares w
      · exact .of_ports rfl
  · exact .refl u

/-! ## The Commit Queue -/

theorem State.failQueued_spares (e : QueueEntry) (r : FailReason) (record : Option HostRecord) (tell : Bool) :
    s.SparesPorts own (s.failQueued e r record tell) := by
  have failed : s.SparesPorts own (({ s with queue := s.queue.filter fun x => x.port != e.port } : State).onPort e.port
      (PortState.failCommit e.token r)) :=
    (State.onPort_spares_of_link _ rfl ⟨rfl, rfl, rfl, .inl rfl⟩).after rfl
  unfold State.failQueued
  cases tell
  · exact failed.trans (.of_ports rfl)
  · exact (failed.trans (State.notify_spares _ _ _)).trans (.of_ports rfl)

theorem State.failAllQueued_spares (r : FailReason) : s.SparesPorts own (s.failAllQueued r) :=
  .foldl (fun u e => u.failQueued_spares e r none true) s.queue s

/-- A store state, told to every port. -/
theorem State.tellStore_spares (st : StoreState) :
    s.SparesPorts own (({ s with store := st } : State).notifyAll (.storeState st)) :=
  (State.notifyAll_spares _ _).after rfl

theorem State.enterReadOnly_spares (r : ReadOnlyReason) : s.SparesPorts own (s.enterReadOnly r) :=
  (s.tellStore_spares (.readOnly r)).trans (State.failAllQueued_spares _ .readOnly)

theorem PortState.formatAccepted_spares (c : PortState) : c.Spares False c.formatAccepted := by
  unfold PortState.formatAccepted
  cases c.txn <;> exact ⟨rfl, .inr ⟨rfl, rfl, rfl, .inl rfl⟩⟩

theorem State.acceptFormat_spares : s.SparesPorts own s.acceptFormat := by
  have told : s.SparesPorts own ((({ s with store := .formatting } : State).notifyAll (.storeState .formatting)).failAllQueued
      .aborted) := (s.tellStore_spares .formatting).trans (State.failAllQueued_spares _ .aborted)
  exact (told.trans (State.onPorts_spares _ PortState.formatAccepted_spares)).trans (.of_ports rfl)

theorem State.submit_spares (p : Port) (st : Staging) : s.SparesPorts (some p) (s.submit p st).1 :=
  (s.onPort_spares_own (f := fun c => { c with
    txn := .queued, staging := st, tokenCounter := (s.port p).tokenCounter + 1 }) rfl).trans (.of_ports rfl)

end

/-! ## The requests (R144, R149) -/

section
variable (s : State) (p : Port)

theorem beginBody_spares : s.SparesPorts (some p) (beginBody p s).1 := by
  unfold beginBody
  split
  · exact .refl s
  · split
    · exact s.onPort_spares_own rfl
    · exact .refl s

theorem State.stageReload_spares (r : HostRecord) : s.SparesPorts (some p) (s.stageReload r) := by
  unfold State.stageReload
  split
  · exact s.loadTimer_spares _
  · exact .refl s

theorem stageBody_spares (e : StagedEntry) : s.SparesPorts (some p) (stageBody p e s).1 := by
  unfold stageBody
  split
  · exact .refl s
  · split
    · split
      · exact .refl s
      · simp only
        split
        · exact .refl s
        · exact (s.stageReload_spares p e.record).trans (State.onPort_spares_own _ rfl)
    · exact .refl s

theorem stageWriteBody_spares (record presence : Byte) (expected : Version) (data : List Byte) :
    s.SparesPorts (some p) (stageWriteBody p record presence expected data s).1 := by
  unfold stageWriteBody
  split
  · split
    · exact stageBody_spares s p _
    · exact .refl s
  · exact .refl s

theorem stageDeleteBody_spares (record presence : Byte) (expected : Version) :
    s.SparesPorts (some p) (stageDeleteBody p record presence expected s).1 := by
  unfold stageDeleteBody
  split
  · exact stageBody_spares s p _
  · exact .refl s

theorem dropBody_spares (record : Byte) : s.SparesPorts (some p) (dropBody p record s).1 := by
  unfold dropBody
  split
  · exact .refl s
  · split
    · exact .refl s
    · split
      · simp only
        split
        · exact s.onPort_spares_own rfl
        · exact .refl s
      · exact .refl s

theorem commitBody_spares : s.SparesPorts (some p) (commitBody p s).1 := by
  unfold commitBody
  split
  · exact .refl s
  · split
    · split
      · exact .refl s
      · exact (s.submit_spares p _).trans (.of_ports rfl)
    · exact .refl s

theorem abortBody_spares : s.SparesPorts (some p) (abortBody p s).1 := by
  unfold abortBody
  split
  · exact .refl s
  · split
    · exact .refl s
    · exact s.onPort_spares_own rfl
    · split
      · exact s.failQueued_spares _ _ _ _
      · exact .refl s
    · exact .refl s

theorem leaseRequest_spares (window : Byte) (body : WindowNo → State → State × ResultHolder)
    (h : ∀ w, s.SparesPorts (some p) (body w s).1) : s.SparesPorts (some p) (leaseRequest window body s).1 := by
  unfold leaseRequest
  split
  · exact .refl s
  · split
    · exact .refl s
    · exact h _

theorem grantBody_spares (wait : Bool) (w : WindowNo) (ticks : Nat) :
    s.SparesPorts (some p) (grantBody p wait w ticks s).1 := by
  unfold grantBody
  simp only
  split
  · exact .of_ports rfl
  · split
    · simp only
      split
      · exact .refl s
      · exact s.loadTimer_spares w
    · split
      · exact .of_ports rfl
      · exact .refl s

theorem leaseBody_spares (window wait : Byte) : s.SparesPorts (some p) (leaseBody p window wait s).1 := by
  unfold leaseBody
  split
  · exact .refl s
  · refine leaseRequest_spares s p window _ fun w => ?_
    split
    · exact .refl s
    · split
      · exact grantBody_spares s p _ w _
      · exact .refl s
      · exact .refl s

theorem renewBody_spares (window : Byte) : s.SparesPorts (some p) (renewBody p window s).1 := by
  refine leaseRequest_spares s p window _ fun w => ?_
  split
  · exact .refl s
  · split
    · split
      · simp only
        split
        · exact .refl s
        · exact s.loadTimer_spares w
      · exact .refl s
    · exact .refl s

theorem releaseBody_spares (window : Byte) : s.SparesPorts (some p) (releaseBody p window s).1 := by
  refine leaseRequest_spares s p window _ fun w => ?_
  split
  · exact .refl s
  · split
    · split
      · exact .refl s
      · exact s.passOn_spares w
    · split
      · exact .of_ports rfl
      · exact .refl s

theorem breakBody_spares (window : Byte) : s.SparesPorts (some p) (breakBody p window s).1 := by
  refine leaseRequest_spares s p window _ fun w => ?_
  split
  · exact .refl s
  · split
    · exact .refl s
    · split
      · exact .refl s
      · split
        · exact .refl s
        · exact (s.notify_spares _ _).trans (State.passOn_spares _ w)

theorem watchBody_spares (area : Byte) : s.SparesPorts (some p) (watchBody p area s).1 := by
  unfold watchBody
  split
  · exact .refl s
  · split
    · exact .refl s
    · split
      · exact .refl s
      · exact s.onPort_spares_own rfl

theorem unwatchBody_spares (area : Byte) : s.SparesPorts (some p) (unwatchBody p area s).1 := by
  unfold unwatchBody
  split
  · exact .refl s
  · split
    · exact .refl s
    · split
      · exact .refl s
      · split
        · exact s.onPort_spares_own rfl
        · exact .refl s

theorem defineBody_spares (window base size policy leaseTime : Byte) :
    s.SparesPorts (some p) (defineBody p window base size policy leaseTime s).1 := by
  unfold defineBody
  split
  · split
    · exact .refl s
    · split
      · exact .refl s
      · split
        · exact .refl s
        · exact s.submit_spares p _
  · exact .refl s

theorem clearBody_spares (window : Byte) : s.SparesPorts (some p) (clearBody p window s).1 := by
  unfold clearBody
  split
  · exact .refl s
  · split
    · exact .refl s
    · split
      · exact .refl s
      · split
        · exact .refl s
        · exact s.submit_spares p _

theorem formatBody_spares : s.SparesPorts (some p) (formatBody p s).1 := by
  unfold formatBody
  split
  · exact .refl s
  · split
    · exact .refl s
    · exact s.acceptFormat_spares

theorem State.resetTransaction_spares : s.SparesPorts (some p) (s.resetTransaction p) := by
  unfold State.resetTransaction
  split
  · exact s.onPort_spares_own rfl
  · exact s.onPort_spares_own rfl
  · split
    · exact s.failQueued_spares _ _ _ _
    · exact .refl s
  · exact .refl s

theorem State.passOnAll_spares : s.SparesPorts (some p) (s.passOnAll p) := by
  refine .foldl (fun u w => ?_) allWindows s
  split
  · exact u.passOn_spares w
  · exact .refl u

theorem PortState.clearSession_service (c : PortState) : c.clearSession.service = c.service := rfl

theorem portResetBody_spares : s.SparesPorts (some p) (portResetBody p s).1 := by
  rw [portResetBody_eq]
  have left : s.SparesPorts (some p) ((s.resetTransaction p).leaveWaitLists p) :=
    (s.resetTransaction_spares p).trans (.of_ports (State.leaveWaitLists_ports _ p))
  exact (left.trans (State.passOnAll_spares _ p)).trans (State.onPort_spares_own _ (PortState.clearSession_service _))

end

/-! ## The commands of the ports -/

theorem serve_spares {p : Port} {n : Nat} {body : State → State × ResultHolder} {s t : State}
    (hb : ∀ u : State, u.SparesPorts (some p) (body u).1) (h : serve p n body s = .next t) :
    s.SparesPorts (some p) t := by
  unfold serve at h
  split at h <;> obtain rfl := Host.Outcome.next.inj h
  · exact .refl s
  · exact ((s.onPort_spares_own rfl).trans (hb _)).trans (State.onPort_spares_own _ rfl)

theorem atLink_spares {p : Port} {f : State → PortState → PortState} {s t : State}
    (hf : ∀ (u : State) c, LinkLeaves c (f u c))
    (h : (.next (s.atLink p f) : Host.Outcome State Fault Refusal) = .next t) : s.SparesPorts (some p) t := by
  obtain rfl := Host.Outcome.next.inj h
  unfold State.atLink
  split
  · exact .refl s
  · refine s.onPort_spares_own ?_
    rw [(hf s (s.port p)).1]

/-- A command of a port leaves the link and the result of every other, and every service flag. -/
theorem exec_port_spares {c : Instr} {p : Port} {s t : State} (hc : portOf c = some p) (h : exec c s = .next t) :
    s.SparesPorts (some p) t := by
  cases c with
  | status q =>
    cases hc
    exact serve_spares (body := fun s => (s, .result .ok (s.statusPayload p))) .refl h
  | read q r =>
    cases hc
    refine serve_spares (fun u => ?_) h
    unfold readBody
    split
    · exact .refl u
    · split <;> exact .refl u
  | scan q a b d =>
    cases hc
    refine serve_spares (fun u => ?_) h
    unfold scanBody
    split
    · split <;> exact .refl u
    · exact .refl u
  | windows q =>
    cases hc
    refine serve_spares (fun u => ?_) h
    unfold windowsBody
    split <;> exact .refl u
  | beginTxn q => cases hc; exact serve_spares (fun u => beginBody_spares u p) h
  | stageWrite q r e v d => cases hc; exact serve_spares (fun u => stageWriteBody_spares u p r e v d) h
  | stageDelete q r e v => cases hc; exact serve_spares (fun u => stageDeleteBody_spares u p r e v) h
  | dropEntry q r => cases hc; exact serve_spares (fun u => dropBody_spares u p r) h
  | commit q => cases hc; exact serve_spares (fun u => commitBody_spares u p) h
  | abort q => cases hc; exact serve_spares (fun u => abortBody_spares u p) h
  | lease q w x => cases hc; exact serve_spares (fun u => leaseBody_spares u p w x) h
  | renew q w => cases hc; exact serve_spares (fun u => renewBody_spares u p w) h
  | release q w => cases hc; exact serve_spares (fun u => releaseBody_spares u p w) h
  | breakLease q w => cases hc; exact serve_spares (fun u => breakBody_spares u p w) h
  | watch q a => cases hc; exact serve_spares (fun u => watchBody_spares u p a) h
  | unwatch q a => cases hc; exact serve_spares (fun u => unwatchBody_spares u p a) h
  | defineWindow q w b z x y => cases hc; exact serve_spares (fun u => defineBody_spares u p w b z x y) h
  | clearWindow q w => cases hc; exact serve_spares (fun u => clearBody_spares u p w) h
  | format q => cases hc; exact serve_spares (fun u => formatBody_spares u p) h
  | portReset q => cases hc; exact serve_spares (fun u => portResetBody_spares u p) h
  | badFrame q wave =>
    cases hc
    refine atLink_spares (fun u c => ?_) h
    split
    · exact u.badFrameAt_leaves c _
    · exact (LinkOnly.refl c).leaves
  | truncated q wave =>
    cases hc
    refine atLink_spares (fun u c => ?_) h
    split
    · exact (u.frame_leaves c _).trans (PortState.linkStart_linkOnly _).leaves
    · exact (LinkOnly.refl c).leaves
  | frameTimeout q wave => cases hc; exact atLink_spares (fun u c => u.timeoutAt_leaves c wave) h
  | badLeadByte q lead =>
    cases hc
    refine atLink_spares (fun u c => ?_) h
    split
    · exact (c.openFrame_linkOnly.trans (u.leadByte_linkOnly _ lead)).leaves
    · exact (LinkOnly.refl c).leaves
  | resultFrame q a => cases hc; exact atLink_spares (fun u c => (u.respond_linkOnly c _ _ a).leaves) h
  | scanBlockDelivered q g => cases hc; exact atLink_spares (fun u c => (u.deliverBlock_linkOnly c g).leaves) h
  | noticeFrame q a => cases hc; exact atLink_spares (fun u c => (u.respond_linkOnly c _ _ a).leaves) h
  | noticeEntryDelivered q g => cases hc; exact atLink_spares (fun u c => u.deliverNotice_leaves c g) h
  | _ => cases hc

/-! ## The engine -/

section
variable {own : Option Port} (s : State)

theorem State.endJob_spares : s.SparesPorts own s.endJob := by
  have free : s.SparesPorts own { s with job := .idle, op := none } := .of_ports rfl
  unfold State.endJob
  simp only
  split
  · exact free.trans (State.enterReadOnly_spares _ .media)
  · exact free

theorem State.commitMediaFailure_spares (p : Port) (token : Token) :
    s.SparesPorts own (s.commitMediaFailure p token) := by
  have failed : s.SparesPorts own (s.dropPending.onPort p (PortState.failCommit token .media)) :=
    (State.onPort_spares_of_link _ rfl ⟨rfl, rfl, rfl, .inl rfl⟩).after rfl
  have thawed := (failed.trans (State.notify_spares _ p (.commitFailed token .media none))).trans
    (.of_ports (State.endFreeze_ports _ p))
  exact thawed.trans (State.endJob_spares _)

theorem State.relocationMediaFailure_spares : s.SparesPorts own s.relocationMediaFailure :=
  s.dropPending.endJob_spares.after rfl

theorem State.programNext_spares (run : ImageRun) {fail : State → State} (hf : ∀ u : State, u.SparesPorts own (fail u)) :
    s.SparesPorts own (s.programNext run fail) := by
  rcases s.programNext_cases run fail with h | ⟨-, -, h⟩ | ⟨i, g, -, -, -, h⟩ <;> rw [h]
  · exact .of_ports rfl
  · exact (hf _).after rfl
  · exact .of_ports rfl

theorem State.commitNext_spares (run : ImageRun) (p : Port) (token : Token) :
    s.SparesPorts own (s.programNext run fun u => u.commitMediaFailure p token) :=
  s.programNext_spares run fun u => u.commitMediaFailure_spares p token

theorem State.relocationNext_spares (run : ImageRun) :
    s.SparesPorts own (s.programNext run State.relocationMediaFailure) :=
  s.programNext_spares run State.relocationMediaFailure_spares

theorem State.startCommit_spares (e : QueueEntry) : s.SparesPorts own (s.startCommit e) := by
  rw [State.startCommit_eq]
  split
  · exact s.enterReadOnly_spares .sequence
  · have begun : s.SparesPorts own (s.commitBegun e) :=
      (State.onPort_spares_of_link _ rfl ⟨rfl, rfl, rfl, .inl rfl⟩).after rfl
    exact begun.trans (State.commitNext_spares _ _ _ _)

theorem State.startRelocation_spares (e : CensusEntry) : s.SparesPorts own (s.startRelocation e) := by
  rw [State.startRelocation_eq]
  split
  · exact s.enterReadOnly_spares .sequence
  · exact (State.relocationNext_spares _ _).after rfl

theorem State.Reclaims.spares {s t : State} (h : s.Reclaims t) : s.SparesPorts own t := by
  cases h with
  | erase _ => exact .of_ports (by rw [State.startErase_changes])
  | relocate _ => exact s.startRelocation_spares _
  | nothing => exact .of_ports rfl
  | space => exact s.enterReadOnly_spares _

theorem State.TakesUp.spares {s t : State} {l : List QueueEntry} (h : State.TakesUp s l t) : s.SparesPorts own t := by
  induction h with
  | reclaims h => exact h.spares
  | starts _ => exact State.startCommit_spares _ _
  | fails r record _ ih => exact (State.failQueued_spares _ _ r record true).trans ih

/-! ### Commit points -/

/-- The end of area scans is the one thing that the engine does to a result (R17). -/
theorem PortState.endAreaScan_spares (c : PortState) : c.Spares False c.endAreaScan :=
  ⟨by rw [PortState.endAreaScan_holder],
    .inr ⟨by rw [PortState.endAreaScan_holder], by rw [PortState.endAreaScan_holder],
      by rw [PortState.endAreaScan_holder], .inr rfl⟩⟩

theorem State.sendChanged_spares (st : Staging) (p : Port) (q : Sequence) :
    s.SparesPorts own (s.sendChanged st p q) := by
  refine .foldl (fun u o => ?_) allPorts s
  split
  · exact .refl u
  · exact .foldl (fun v b => v.notify_spares o b) _ u

theorem State.sendLayoutChanged_spares (w : WindowNo) (reason : LayoutReason) (p : Port) (q : Sequence) :
    s.SparesPorts own (s.sendLayoutChanged w reason p q) := by
  refine .foldl (fun u o => ?_) allPorts s
  split
  · exact .refl u
  · exact u.notify_spares o _

theorem State.settleWatches_spares (w : WindowNo) (reason : LayoutReason) :
    s.SparesPorts own (s.settleWatches w reason) := by
  cases reason with
  | define => exact .refl s
  | clear => exact s.onPorts_spares fun _ => ⟨rfl, .inr ⟨rfl, rfl, rfl, .inl rfl⟩⟩

theorem State.settleLease_spares (w : WindowNo) : s.SparesPorts own (s.settleLease w) := by
  unfold State.settleLease
  split
  · exact .refl s
  · split
    · exact (State.notify_spares _ _ _).after rfl
    · exact .refl s

theorem State.announce_spares (p : Port) (st : Staging) (run : ImageRun) : s.SparesPorts own (s.announce p st run) := by
  unfold State.announce
  split
  · have windows : s.SparesPorts own (s.switchWindows run.images) := by
      obtain ⟨_, switched⟩ := s.switchWindows_changes run.images
      exact .of_ports (by rw [switched])
    exact (((windows.trans (State.settleWatches_spares _ _ _)).trans
      (State.onPorts_spares _ PortState.endAreaScan_spares)).trans
      (State.sendLayoutChanged_spares _ _ _ _ _)).trans (State.settleLease_spares _ _)
  · exact s.sendChanged_spares st p run.sequence

theorem State.completed_spares (run : ImageRun) (pages : List PageNo) : s.SparesPorts own (s.completed run pages) := by
  obtain ⟨_, _, _, h⟩ := s.takeEffectAll_changes run.images pages
  unfold State.completed
  rw [h]
  exact .of_ports rfl

theorem State.commitPoint_spares (p : Port) (token : Token) (st : Staging) (run : ImageRun) :
    s.SparesPorts own (s.commitPoint p token st run) := by
  have done : s.SparesPorts own
      ((s.completed run run.verified).onPort p (PortState.completeCommit token run.sequence)) :=
    (s.completed_spares run run.verified).trans (State.onPort_spares_of_link _ rfl ⟨rfl, rfl, rfl, .inl rfl⟩)
  have told := (done.trans (State.notify_spares _ p (.commitDone token st.count run.sequence))).trans
    (State.announce_spares _ p st run)
  exact (told.trans (.of_ports (State.endFreeze_ports _ p))).trans (State.endJob_spares _)

/-! ### The format -/

theorem PortState.formatEnded_spares (c : PortState) (store : StoreState) : c.Spares False (c.formatEnded store) :=
  c.endAreaScan_spares.trans ⟨rfl, .inr ⟨rfl, rfl, rfl, .inl rfl⟩⟩

theorem State.formatEnd_spares (noted : List NotedErase) : s.SparesPorts own (s.formatEnd noted) := by
  obtain ⟨store, _, _, h⟩ := s.formatEnd_clears noted
  rw [h]
  exact (State.onPorts_spares s fun c => c.formatEnded_spares store).trans (.of_ports rfl)

theorem State.issueErase_ports (g : PageNo) : (s.issueErase g).ports = s.ports := by
  rw [State.issueErase_changes]

theorem State.Sweeps.spares {s t : State} {next : Nat} {epochPage : Option PageNo} {noted : List NotedErase}
    (h : s.Sweeps next epochPage noted t) : s.SparesPorts own t := by
  cases h with
  | erase _ => exact .of_ports (State.issueErase_ports _ _)
  | eraseEpoch _ _ => exact .of_ports (State.issueErase_ports _ _)
  | ends _ _ => exact s.formatEnd_spares noted

theorem State.AttemptsEpoch.spares {s t : State} {q : Sequence} {failures : Nat} {noted : List NotedErase}
    (h : s.AttemptsEpoch q failures noted t) : s.SparesPorts own t := by
  cases h with
  | givesUp h => exact h.spares
  | waits => exact .of_ports rfl
  | programs _ => exact .of_ports rfl
  | erases _ => exact .of_ports rfl
  | noPage h => exact h.spares.after rfl

theorem State.formatNext_spares (step : FormatStep) (noted : List NotedErase) :
    s.SparesPorts own (s.formatNext step noted) := by
  cases step with
  | epoch q failures => exact (s.epochAttempt_attempts q failures noted).spares
  | sweep next epochPage => exact (s.sweep_sweeps next epochPage noted).spares
  | eraseEpoch g => exact .of_ports (State.issueErase_ports _ g)

theorem State.beginFormat_spares : s.SparesPorts own s.beginFormat := by
  unfold State.beginFormat
  split
  · exact (s.sweep_sweeps 0 none []).spares
  · exact (State.epochAttempt_attempts _ _ 0 []).spares.after rfl

/-! ### The verdicts, the resumption and the mount -/

theorem State.afterPass_spares (g : PageNo) : s.SparesPorts own (s.afterPass g) := by
  unfold State.afterPass
  split
  · unfold State.commitPassed
    split
    · exact s.commitPoint_spares _ _ _ _
    · exact (State.commitNext_spares _ _ _ _).after rfl
  · unfold State.relocationPassed
    split
    · exact (s.completed_spares _ _).trans (State.endJob_spares _)
    · exact (State.relocationNext_spares _ _).after rfl
  · exact (s.sweep_sweeps _ _ _).spares
  all_goals exact .refl s

theorem State.afterFail_spares : s.SparesPorts own s.afterFail := by
  unfold State.afterFail
  split
  · unfold State.commitFailed
    split
    · exact (State.commitNext_spares _ _ _ _).after rfl
    · exact s.commitMediaFailure_spares _ _
  · unfold State.relocationFailed
    split
    · exact (State.relocationNext_spares _ _).after rfl
    · exact s.relocationMediaFailure_spares
  · exact (s.epochAttempt_attempts _ _ _).spares
  all_goals exact .refl s

theorem State.settleErase_spares (g : PageNo) (v : EraseVerdict) : s.SparesPorts own (s.settleErase g v) := by
  cases v <;> exact .of_ports rfl

theorem State.afterErase_spares (g : PageNo) (v : EraseVerdict) : s.SparesPorts own (s.afterErase g v) := by
  have settled : s.SparesPorts own (s.settleErase g v) := s.settleErase_spares g v
  unfold State.afterErase
  split
  · exact settled.trans (State.endJob_spares _)
  · exact settled.trans (State.epochAttempt_attempts _ _ _ _).spares
  · unfold State.sweepVerdict
    split
    · exact (s.sweep_sweeps _ _ _).spares
    · exact settled.trans (State.sweep_sweeps _ _ _ _).spares
  · exact settled.trans (State.formatEnd_spares _ _)
  all_goals exact .refl s

theorem State.resume_spares : s.SparesPorts own s.resume := by
  unfold State.resume
  split
  · exact .refl s
  · split
    · exact .refl s
    · exact .refl s
    · exact s.commitNext_spares _ _ _
    · exact s.relocationNext_spares _
    · exact .of_ports (s.issueErase_ports _)
    · exact s.formatNext_spares _ _

theorem State.endMount_spares : s.SparesPorts own (s.endMount s.verdicts) := by
  obtain ⟨store, job, op, ends⟩ := s.endMount_ends
  obtain ⟨_, _, _, _, _, _, _, _, tables⟩ := s.remounted_changes
  rw [ends, tables]
  exact (s.tellStore_spares store).trans (.of_ports rfl)

end

/-! ## The commands -/

/-- The release samples the straps and changes nothing of a port but its service flag (R163). -/
theorem exec_resetRelease_keepsLink {x y z : Bool} {s t : State} (h : exec (.resetRelease x y z) s = .next t) (q : Port) :
    (s.port q).KeepsLink (t.port q) := by
  simp only [exec, execResetRelease] at h
  split at h <;> obtain rfl := Host.Outcome.next.inj h
  · have sampled : ({ s with straps := ⟨x, y, z⟩ } : State).sampleStraps.port q
        = { s.port q with service := Straps.names ⟨x, y, z⟩ q } := Table.get_build _ _
    have kept : (s.port q).KeepsLink { s.port q with service := Straps.names ⟨x, y, z⟩ q } := ⟨rfl, rfl, rfl, .inl rfl⟩
    exact sampled ▸ kept
  · exact .refl _

/-- A command that is neither a device reset nor the release from one spares every port but its own. -/
theorem exec_spares {c : Instr} {s t : State} (h : exec c s = .next t) (release : ∀ x y z, c ≠ .resetRelease x y z)
    (reset : ∀ cut, c ≠ .deviceReset cut) : s.SparesPorts (portOf c) t := by
  rcases leavesEngine_or c with (port | rfl | ⟨w, rfl⟩ | rfl | rfl) | ⟨x, y, z, rfl⟩ | ⟨cut, rfl⟩ | rfl | rfl | ⟨b, rfl⟩
    | ⟨v, rfl⟩ | ⟨v, rfl⟩ | ⟨b, rfl⟩
  · obtain ⟨p, hp⟩ := Option.isSome_iff_exists.mp port
    exact hp ▸ exec_port_spares hp h
  · simp only [exec, execLeaseTick] at h
    split at h <;> obtain rfl := Host.Outcome.next.inj h
    · exact .refl s
    · exact s.tick_spares
  · simp only [exec, execLeaseExpiry] at h
    split at h <;> obtain rfl := Host.Outcome.next.inj h
    · exact s.tick_spares
    · exact .refl s
  · obtain rfl := Host.Outcome.next.inj h
    exact .of_ports rfl
  · simp only [exec, execHoldTakesEffect] at h
    split at h <;> obtain rfl := Host.Outcome.next.inj h
    · exact .of_ports rfl
    · exact .refl s
  · exact absurd rfl (release x y z)
  · exact absurd rfl (reset cut)
  · rcases exec_mountEnd h with rfl | ⟨-, -, rfl⟩
    · exact .refl t
    · exact s.endMount_spares
  · obtain rfl := exec_pfwDeassert h
    exact (State.resume_spares _).after rfl
  · rcases exec_jobChoice h with rfl | ⟨-, -, -, rfl⟩
    · exact .of_ports rfl
    · exact (State.takeUp_takesUp _ s.queue).spares.after rfl
  · rcases exec_pageProgramVerdict h with rfl | ⟨g, i, -, ⟨-, rfl⟩ | ⟨mark, -, rfl⟩⟩
    · exact .refl t
    · exact (State.afterPass_spares _ g).after rfl
    · exact (State.afterFail_spares _).after rfl
  · rcases exec_pageEraseVerdict h with rfl | ⟨g, -, rfl⟩
    · exact .refl t
    · exact (State.afterErase_spares _ g v).after rfl
  · rcases exec_formatJobBegin h with rfl | ⟨-, -, -, rfl⟩
    · exact .of_ports rfl
    · exact (State.beginFormat_spares _).after rfl

/-- Settles O60: each operation spares the ports that are not the command's own; the release and the device reset by what
they set. -/
theorem portsAreSeparate : Obligations.PortsAreSeparate := by
  intro c s t q h
  refine ⟨fun release => ?_, fun other reset => ?_⟩
  · by_cases reset : ∃ cut, c = .deviceReset cut
    · obtain ⟨cut, rfl⟩ := reset
      rw [(exec_deviceReset_fields h).1 q]
      rfl
    · exact (exec_spares h release (not_exists.mp reset) q).service
  · have kept : (s.port q).KeepsLink (t.port q) := by
      by_cases release : ∃ x y z, c = .resetRelease x y z
      · obtain ⟨x, y, z, rfl⟩ := release
        exact exec_resetRelease_keepsLink h q
      · exact ((exec_spares h (fun x y z e => release ⟨x, y, z, e⟩) reset q).link).resolve_left other
    exact ⟨kept.controller, kept.line, kept.tokenCounter, kept.holder_or⟩

end Sys2Proof.Machine
end

section
/-!
SUPPORT. O3 and O5: the frame that a run of bytes forms, and the request that a good frame is (R145, R146, R171).
-/

namespace Sys2Proof.Machine

/-! ## The bytes that are taken (R145) -/

/-- The number of bytes of the request that a lead byte and the bytes after it begin, as far as they tell it (R145, Table
39). -/
def requestLength (lead : Byte) (rest : List Byte) : Option Nat :=
  match codeLength lead with
  | .unknown => none
  | .fixed n => some n
  | .byArgument => rest[4]?.map fun length => 7 + length.toNat

theorem requestLength_of_fixed {lead : Byte} {n : Nat} (h : codeLength lead = .fixed n) (rest : List Byte) :
    requestLength lead rest = some n := by simp only [requestLength, h]

theorem requestLength_of_byArgument {lead : Byte} (h : codeLength lead = .byArgument) (rest : List Byte) :
    requestLength lead rest = rest[4]?.map fun length => 7 + length.toNat := by simp only [requestLength, h]

theorem requestLength_of_unknown {lead : Byte} (h : codeLength lead = .unknown) (rest : List Byte) :
    requestLength lead rest = none := by simp only [requestLength, h]

/-- The frame's length is known: `n` bytes, by its code or by its length argument. -/
def RequestFrame.Expects (f : RequestFrame) (lead : Byte) (n : Nat) : Prop :=
  codeLength lead = .fixed n ∨ codeLength lead = .byArgument ∧ f.expected = some n

theorem RequestFrame.take_of_expects {f : RequestFrame} {lead : Byte} {n : Nat} (h : f.Expects lead n) (b : Byte) :
    f.take lead b = if f.count + 2 ≤ n then ({ f with bytes := f.bytes ++ [b], count := f.count + 1, timer := 0 }, true)
      else ({ f with count := f.count + 1, timer := 0 }, false) := by
  rcases h with fixed | ⟨argument, expected⟩
  · simp only [RequestFrame.take, fixed]
  · simp only [RequestFrame.take, argument, expected]

/-- Bytes of a frame whose length is known are acknowledged and kept up to it. -/
theorem RequestFrame.takeAll_of_expects {f : RequestFrame} {lead : Byte} {n : Nat} (h : f.Expects lead n)
    (timer : f.timer = 0) (bytes : List Byte) :
    f.takeAll lead bytes
      = ({ f with bytes := f.bytes ++ bytes.take (n - 1 - f.count), count := f.count + bytes.length },
        (List.range bytes.length).map fun k => decide (f.count + k + 2 ≤ n)) := by
  induction bytes generalizing f with
  | nil => simp [RequestFrame.takeAll]
  | cons b rest ih =>
    simp only [RequestFrame.takeAll, RequestFrame.take_of_expects h, List.length_cons, List.range_succ_eq_map,
      List.map_cons, List.map_map]
    by_cases room : f.count + 2 ≤ n
    · have more : n - 1 - f.count = n - 1 - (f.count + 1) + 1 := by omega
      rw [if_pos room, ih (f := { f with bytes := f.bytes ++ [b], count := f.count + 1, timer := 0 }) h rfl]
      simp [more, timer, room, Function.comp_def, Nat.add_comm 1, Nat.add_assoc]
    · have none : n - 1 - f.count = 0 := by omega
      have none' : n - 1 - (f.count + 1) = 0 := by omega
      rw [if_neg room, ih (f := { f with count := f.count + 1, timer := 0 }) h rfl]
      simp [none, none', timer, room, Function.comp_def, Nat.add_comm 1, Nat.add_assoc]

/-- Bytes of a code that names no request are all acknowledged and none kept. -/
theorem RequestFrame.takeAll_of_unknown {f : RequestFrame} {lead : Byte} (h : codeLength lead = .unknown)
    (timer : f.timer = 0) (bytes : List Byte) :
    f.takeAll lead bytes = ({ f with count := f.count + bytes.length }, List.replicate bytes.length true) := by
  induction bytes generalizing f with
  | nil => rfl
  | cons b rest ih =>
    simp only [RequestFrame.takeAll, RequestFrame.take, h]
    rw [ih (f := { f with count := f.count + 1, timer := 0 }) rfl]
    simp [timer, List.replicate_succ, Nat.add_comm 1, Nat.add_assoc]

/-- Bytes of a STAGE_WRITE before its length argument are all acknowledged and kept. -/
theorem RequestFrame.takeAll_before_argument {f : RequestFrame} {lead : Byte} (h : codeLength lead = .byArgument)
    (expected : f.expected = none) (timer : f.timer = 0) {bytes : List Byte} (few : f.count + bytes.length < 5) :
    f.takeAll lead bytes
      = ({ f with bytes := f.bytes ++ bytes, count := f.count + bytes.length }, List.replicate bytes.length true) := by
  induction bytes generalizing f with
  | nil => simp [RequestFrame.takeAll]
  | cons b rest ih =>
    rw [List.length_cons] at few
    have before : ¬f.count + 1 = 5 := by omega
    simp only [RequestFrame.takeAll, RequestFrame.take, h, expected, if_neg before]
    rw [ih (f := { f with bytes := f.bytes ++ [b], count := f.count + 1, expected := none, timer := 0 }) rfl rfl
      (by simp only; omega)]
    simp [timer, List.replicate_succ, Nat.add_comm 1, Nat.add_assoc]

theorem RequestFrame.takeAll_append (f : RequestFrame) (lead : Byte) (xs ys : List Byte) :
    f.takeAll lead (xs ++ ys)
      = (((f.takeAll lead xs).1.takeAll lead ys).1,
        (f.takeAll lead xs).2 ++ ((f.takeAll lead xs).1.takeAll lead ys).2) := by
  induction xs generalizing f with
  | nil => rfl
  | cons b rest ih =>
    simp only [List.cons_append, RequestFrame.takeAll, ih]

/-- The length argument of a STAGE_WRITE sets the expected length. -/
theorem RequestFrame.takeAll_through_argument {lead : Byte} (h : codeLength lead = .byArgument) {first : List Byte}
    (four : first.length = 4) (length : Byte) :
    (RequestFrame.withLead lead).takeAll lead (first ++ [length])
      = (⟨some lead, first ++ [length], 5, some (7 + length.toNat), 0⟩, List.replicate 5 true) := by
  have before := RequestFrame.takeAll_before_argument (f := RequestFrame.withLead lead) h
    (by simp only [RequestFrame.withLead, h]) rfl (bytes := first) (by rw [four]; exact Nat.lt_succ_self 4)
  have taken : (⟨some lead, first, 4, none, 0⟩ : RequestFrame).take lead length
      = (⟨some lead, first ++ [length], 5, some (7 + length.toNat), 0⟩, true) := by
    simp only [RequestFrame.take, h]
    rfl
  rw [RequestFrame.takeAll_append, before]
  simp only [RequestFrame.withLead, h, four, List.nil_append, Nat.zero_add, RequestFrame.takeAll, taken]
  rfl

theorem map_range_add_of_true {g : Nat → Bool} {n : Nat} (early : ∀ k < n, g k = true) (m : Nat) :
    (List.range (n + m)).map g = List.replicate n true ++ (List.range m).map fun k => g (n + k) := by
  have first : (List.range n).map g = List.replicate n true := by
    rw [List.map_congr_left fun k hk => early k (List.mem_range.mp hk), List.map_const', List.length_range]
  rw [List.range_add, List.map_append, first, List.map_map]
  rfl

/-- The frame that a STAGE_WRITE forms once its length argument has come, with the acknowledges. -/
theorem RequestFrame.takeAll_of_argument {lead length : Byte} (h : codeLength lead = .byArgument) {rest : List Byte}
    (argument : rest[4]? = some length) :
    (RequestFrame.withLead lead).takeAll lead rest
      = (⟨some lead, rest.take (6 + length.toNat), rest.length, some (7 + length.toNat), 0⟩,
        (List.range rest.length).map fun k => decide (k + 2 ≤ 7 + length.toNat)) := by
  obtain ⟨first, tail, rfl, four⟩ : ∃ first tail, rest = first ++ [length] ++ tail ∧ first.length = 4 := by
    match rest, argument with
    | a :: b :: c :: d :: _ :: tail, rfl => exact ⟨[a, b, c, d], tail, rfl, rfl⟩
  have known : RequestFrame.Expects ⟨some lead, first ++ [length], 5, some (7 + length.toNat), 0⟩ lead
    (7 + length.toNat) := .inr ⟨h, rfl⟩
  have five : (first ++ [length]).length = 5 := by rw [List.length_append, four, List.length_singleton]
  have kept : (first ++ [length] ++ tail).take (6 + length.toNat)
      = first ++ [length] ++ tail.take (7 + length.toNat - 1 - 5) := by
    have six : 6 + length.toNat = (first ++ [length]).length + (7 + length.toNat - 1 - 5) := by omega
    rw [six, List.take_length_add_append]
  rw [RequestFrame.takeAll_append, RequestFrame.takeAll_through_argument h four, kept, List.length_append, five,
    map_range_add_of_true (n := 5) (fun k hk => decide_eq_true (by omega)), RequestFrame.takeAll_of_expects known rfl]

/-- The bytes after the lead byte are acknowledged up to the request's length, as far as that is told (R145). -/
theorem RequestFrame.takeAll_acks (lead : Byte) (rest : List Byte) :
    ((RequestFrame.withLead lead).takeAll lead rest).2
      = (List.range rest.length).map fun k => (requestLength lead rest).all fun n => decide (k + 2 ≤ n) := by
  cases code : codeLength lead with
  | unknown =>
    rw [RequestFrame.takeAll_of_unknown code rfl, requestLength_of_unknown code]
    simp
  | fixed n =>
    rw [RequestFrame.takeAll_of_expects (.inl code) rfl, requestLength_of_fixed code]
    simp [RequestFrame.withLead]
  | byArgument =>
    rw [requestLength_of_byArgument code]
    cases argument : rest[4]? with
    | some length =>
      rw [RequestFrame.takeAll_of_argument code argument]
      simp
    | none =>
      rw [RequestFrame.takeAll_before_argument code (by simp only [RequestFrame.withLead, code]) rfl
        (Nat.lt_succ_of_le (by simpa [RequestFrame.withLead] using List.getElem?_eq_none_iff.mp argument))]
      simp

/-- Settles O5: the acknowledges in general, by what each kind of code tells of the length. -/
theorem acknowledgedBytes : Obligations.AcknowledgedBytes := by
  refine ⟨fun lead n bytes code => ?_, fun lead bytes code => ?_, fun lead bytes code => ?_⟩
  · rw [RequestFrame.takeAll_acks, requestLength_of_fixed code]
    rfl
  · rw [RequestFrame.takeAll_of_unknown code rfl]
  · rw [RequestFrame.takeAll_acks, requestLength_of_byArgument code]
    cases bytes[4]? <;> rfl

/-! ## The judging of a frame (R146) -/

/-- The frame that a known request's bytes form: they are kept up to its length. -/
theorem RequestFrame.takeAll_of_known {lead : Byte} (known : codeLength lead ≠ .unknown) (rest : List Byte) :
    ((RequestFrame.withLead lead).takeAll lead rest).1
      = ⟨some lead, (match requestLength lead rest with
          | some n => rest.take (n - 1)
          | none => rest), rest.length, requestLength lead rest, 0⟩ := by
  cases code : codeLength lead with
  | unknown => exact absurd code known
  | fixed n =>
    rw [RequestFrame.takeAll_of_expects (.inl code) rfl, requestLength_of_fixed code]
    simp [RequestFrame.withLead, code]
  | byArgument =>
    rw [requestLength_of_byArgument code]
    cases argument : rest[4]? with
    | some length =>
      rw [RequestFrame.takeAll_of_argument code argument]
      simp [Nat.add_comm 7, Nat.add_comm 6]
    | none =>
      rw [RequestFrame.takeAll_before_argument code (by simp only [RequestFrame.withLead, code]) rfl
        (Nat.lt_succ_of_le (by simpa [RequestFrame.withLead] using List.getElem?_eq_none_iff.mp argument))]
      simp [RequestFrame.withLead, code]

theorem judgeBytes_of_unknown {lead : Byte} (code : codeLength lead = .unknown) (rest : List Byte) :
    judgeBytes (lead :: rest) = .unknown := by
  rw [judgeBytes, RequestFrame.takeAll_of_unknown code rfl]
  simp only [RequestFrame.judge, RequestFrame.withLead, code]

/-- The checks on a known request's frame in their order: the number of its bytes, then the check byte. -/
theorem judgeBytes_of_known {lead : Byte} (known : codeLength lead ≠ .unknown) (rest : List Byte) :
    judgeBytes (lead :: rest)
      = if requestLength lead rest = some (rest.length + 1) then
          if rest.getLast? = some (checkByte (lead :: rest.dropLast)) then .good lead rest.dropLast else .badCheck
        else .badLength := by
  have judged {f : RequestFrame} (hl : f.lead = some lead) : f.judge
      = if f.expected = some (1 + f.count) then
          if f.bytes.getLast? = some (checkByte (lead :: f.bytes.dropLast)) then .good lead f.bytes.dropLast else .badCheck
        else .badLength := by
    simp only [RequestFrame.judge, hl]
    cases code : codeLength lead with
    | unknown => exact absurd code known
    | fixed _ => rfl
    | byArgument => rfl
  rw [judgeBytes, judged (by rw [RequestFrame.takeAll_of_known known]), RequestFrame.takeAll_of_known known,
    Nat.add_comm 1]
  by_cases length : requestLength lead rest = some (rest.length + 1)
  · simp only [length, if_true, Nat.add_sub_cancel, List.take_length]
  · simp only [if_neg length]

/-! ## Requests and their frames (R171, Table 39) -/

/-- The arguments are as many as the lead byte's code asks, with the lead byte and the check byte. -/
def ArgumentsFit (lead : Byte) (arguments : List Byte) : Prop :=
  requestLength lead arguments = some (arguments.length + 2)

/-- Arguments fit none but a known code. -/
theorem ArgumentsFit.known {lead : Byte} {arguments : List Byte} (fit : ArgumentsFit lead arguments) :
    codeLength lead ≠ .unknown := fun code => by
  rw [ArgumentsFit, requestLength_of_unknown code] at fit
  cases fit

/-- The check byte does not bear on the number of bytes that a request asks. -/
theorem requestLength_append_check {lead : Byte} {arguments : List Byte} (check : Byte) :
    requestLength lead (arguments ++ [check]) = some (arguments.length + 2) ↔ ArgumentsFit lead arguments := by
  unfold ArgumentsFit
  cases code : codeLength lead with
  | unknown => simp only [requestLength_of_unknown code]
  | fixed n => simp only [requestLength_of_fixed code]
  | byArgument =>
    rw [requestLength_of_byArgument code, requestLength_of_byArgument code]
    rcases Nat.lt_trichotomy arguments.length 4 with few | four | more
    · rw [List.getElem?_eq_none (by simp; omega), List.getElem?_eq_none (by omega)]
    · rw [List.getElem?_append_right (by omega), List.getElem?_eq_none (l := arguments) (by omega), four]
      simp
      omega
    · rw [List.getElem?_append_left more]

/-- A frame is judged good exactly when it is a lead byte, arguments that fit it, and their check byte. -/
theorem judgeBytes_eq_good_iff {bytes : List Byte} {lead : Byte} {arguments : List Byte} :
    judgeBytes bytes = .good lead arguments ↔ bytes = withCheck (lead :: arguments) ∧ ArgumentsFit lead arguments := by
  constructor
  · intro good
    cases bytes with
    | nil => cases good
    | cons first rest =>
      by_cases code : codeLength first = .unknown
      · rw [judgeBytes_of_unknown code] at good
        cases good
      · rw [judgeBytes_of_known code] at good
        split at good
        · next length =>
          split at good
          · next check =>
            obtain ⟨rfl, rfl⟩ := FrameVerdict.good.inj good
            have whole := List.dropLast_append_getLast? _ check
            refine ⟨by rw [withCheck, List.cons_append, whole], (requestLength_append_check (checkByte (first :: rest.dropLast))).mp ?_⟩
            · have size := congrArg List.length whole
              rw [List.length_append, List.length_singleton] at size
              rw [whole, length, ← size]
          · cases good
        · cases good
  · rintro ⟨rfl, fit⟩
    rw [withCheck, List.cons_append, judgeBytes_of_known fit.known, if_pos, if_pos, List.dropLast_concat]
    · rw [List.getLast?_concat, List.dropLast_concat]
    · rw [List.length_append, List.length_singleton]
      exact (requestLength_append_check _).mpr fit

/-! ### A version as two bytes (00_scope.md, Conventions) -/

@[simp] theorem append_bytes_of_version (v : Version) : v.extractLsb' 8 8 ++ v.extractLsb' 0 8 = v :=
  (BitVec.extractLsb'_append_extractLsb'_eq_extractLsb' (start₁ := 0) rfl).trans BitVec.extractLsb'_eq_self

@[simp] theorem be16_append_bytes (high low : Byte) : be16 (high ++ low) = [high, low] := by
  rw [be16, BitVec.extractLsb'_append_eq_left, BitVec.extractLsb'_append_eq_right]

/-! ### Arguments by their number -/

section
variable {lead : Byte} {arguments : List Byte} (fit : ArgumentsFit lead arguments)
include fit

theorem ArgumentsFit.length_of_fixed {n : Nat} (code : codeLength lead = .fixed (n + 2)) : arguments.length = n := by
  rw [ArgumentsFit, requestLength_of_fixed code] at fit
  exact (Nat.add_right_cancel (Option.some.inj fit)).symm

theorem ArgumentsFit.none (code : codeLength lead = .fixed 2) : arguments = [] :=
  List.length_eq_zero_iff.mp (fit.length_of_fixed code)

theorem ArgumentsFit.one (code : codeLength lead = .fixed 3) : ∃ a, arguments = [a] :=
  List.length_eq_one_iff.mp (fit.length_of_fixed code)

theorem ArgumentsFit.two (code : codeLength lead = .fixed 4) : ∃ a b, arguments = [a, b] :=
  List.length_eq_two.mp (fit.length_of_fixed code)

theorem ArgumentsFit.three (code : codeLength lead = .fixed 5) : ∃ a b c, arguments = [a, b, c] :=
  List.length_eq_three.mp (fit.length_of_fixed code)

theorem ArgumentsFit.four (code : codeLength lead = .fixed 6) : ∃ a b c d, arguments = [a, b, c, d] := by
  match arguments, fit.length_of_fixed code with
  | [a, b, c, d], _ => exact ⟨a, b, c, d, rfl⟩

theorem ArgumentsFit.five (code : codeLength lead = .fixed 7) : ∃ a b c d e, arguments = [a, b, c, d, e] := by
  match arguments, fit.length_of_fixed code with
  | [a, b, c, d, e], _ => exact ⟨a, b, c, d, e, rfl⟩

end

/-- The arguments of a STAGE_WRITE frame: its length argument counts the data bytes that follow it (R171). -/
theorem ArgumentsFit.stageWrite {arguments : List Byte} (fit : ArgumentsFit 0x11 arguments) (p : Port) :
    ∃ i, requestOf p 0x11 arguments = some i ∧ WellFormed i = true ∧ argumentsOf i = some (p, 0x11 :: arguments) := by
  rw [ArgumentsFit, requestLength_of_byArgument rfl] at fit
  obtain ⟨length, argument, size⟩ := Option.map_eq_some_iff.mp fit
  match arguments, argument with
  | r :: e :: v1 :: v0 :: _ :: data, rfl =>
    have counts : data.length = length.toNat := by
      simp only [List.length_cons] at size
      omega
    have byte : byteOf data.length = length := by rw [counts, byteOf, BitVec.ofNat_toNat, BitVec.setWidth_eq]
    have bound : data.length ≤ 255 := counts ▸ Nat.le_of_lt_succ length.isLt
    exact ⟨.stageWrite p r e (v1 ++ v0) data, rfl, decide_eq_true bound, by simp [argumentsOf, byte]⟩

/-- Arguments that fit their lead byte name one well-formed request, of which they are the arguments (Table 39). -/
theorem ArgumentsFit.request {lead : Byte} {arguments : List Byte} (fit : ArgumentsFit lead arguments) (p : Port) :
    ∃ i, requestOf p lead arguments = some i ∧ WellFormed i = true ∧ argumentsOf i = some (p, lead :: arguments) := by
  have known := fit.known
  unfold codeLength at known
  split at known
  · next h =>
    obtain rfl : lead = 0x01 := BitVec.eq_of_toNat_eq h
    obtain rfl := fit.none rfl
    exact ⟨_, rfl, rfl, rfl⟩
  · next h =>
    obtain rfl : lead = 0x02 := BitVec.eq_of_toNat_eq h
    obtain ⟨a, rfl⟩ := fit.one rfl
    exact ⟨_, rfl, rfl, rfl⟩
  · next h =>
    obtain rfl : lead = 0x03 := BitVec.eq_of_toNat_eq h
    obtain ⟨a, b, c, rfl⟩ := fit.three rfl
    exact ⟨_, rfl, rfl, rfl⟩
  · next h =>
    obtain rfl : lead = 0x04 := BitVec.eq_of_toNat_eq h
    obtain rfl := fit.none rfl
    exact ⟨_, rfl, rfl, rfl⟩
  · next h =>
    obtain rfl : lead = 0x10 := BitVec.eq_of_toNat_eq h
    obtain rfl := fit.none rfl
    exact ⟨_, rfl, rfl, rfl⟩
  · next h =>
    obtain rfl : lead = 0x11 := BitVec.eq_of_toNat_eq h
    exact fit.stageWrite p
  · next h =>
    obtain rfl : lead = 0x12 := BitVec.eq_of_toNat_eq h
    obtain ⟨r, e, v1, v0, rfl⟩ := fit.four rfl
    exact ⟨_, rfl, rfl, by simp [argumentsOf]⟩
  · next h =>
    obtain rfl : lead = 0x13 := BitVec.eq_of_toNat_eq h
    obtain ⟨a, rfl⟩ := fit.one rfl
    exact ⟨_, rfl, rfl, rfl⟩
  · next h =>
    obtain rfl : lead = 0x14 := BitVec.eq_of_toNat_eq h
    obtain rfl := fit.none rfl
    exact ⟨_, rfl, rfl, rfl⟩
  · next h =>
    obtain rfl : lead = 0x15 := BitVec.eq_of_toNat_eq h
    obtain rfl := fit.none rfl
    exact ⟨_, rfl, rfl, rfl⟩
  · next h =>
    obtain rfl : lead = 0x20 := BitVec.eq_of_toNat_eq h
    obtain ⟨a, b, rfl⟩ := fit.two rfl
    exact ⟨_, rfl, rfl, rfl⟩
  · next h =>
    obtain rfl : lead = 0x21 := BitVec.eq_of_toNat_eq h
    obtain ⟨a, rfl⟩ := fit.one rfl
    exact ⟨_, rfl, rfl, rfl⟩
  · next h =>
    obtain rfl : lead = 0x22 := BitVec.eq_of_toNat_eq h
    obtain ⟨a, rfl⟩ := fit.one rfl
    exact ⟨_, rfl, rfl, rfl⟩
  · next h =>
    obtain rfl : lead = 0x23 := BitVec.eq_of_toNat_eq h
    obtain ⟨a, rfl⟩ := fit.one rfl
    exact ⟨_, rfl, rfl, rfl⟩
  · next h =>
    obtain rfl : lead = 0x28 := BitVec.eq_of_toNat_eq h
    obtain ⟨a, rfl⟩ := fit.one rfl
    exact ⟨_, rfl, rfl, rfl⟩
  · next h =>
    obtain rfl : lead = 0x29 := BitVec.eq_of_toNat_eq h
    obtain ⟨a, rfl⟩ := fit.one rfl
    exact ⟨_, rfl, rfl, rfl⟩
  · next h =>
    obtain rfl : lead = 0x30 := BitVec.eq_of_toNat_eq h
    obtain ⟨a, b, c, d, e, rfl⟩ := fit.five rfl
    exact ⟨_, rfl, rfl, rfl⟩
  · next h =>
    obtain rfl : lead = 0x31 := BitVec.eq_of_toNat_eq h
    obtain ⟨a, rfl⟩ := fit.one rfl
    exact ⟨_, rfl, rfl, rfl⟩
  · next h =>
    obtain rfl : lead = 0x38 := BitVec.eq_of_toNat_eq h
    obtain rfl := fit.none rfl
    exact ⟨_, rfl, rfl, rfl⟩
  · next h =>
    obtain rfl : lead = 0x3F := BitVec.eq_of_toNat_eq h
    obtain rfl := fit.none rfl
    exact ⟨_, rfl, rfl, rfl⟩
  · exact absurd rfl known

/-- The arguments of a well-formed request fit its lead byte and name it. -/
theorem ArgumentsFit.of_argumentsOf {i : Instr} {p : Port} {bytes : List Byte} (wf : WellFormed i = true)
    (h : argumentsOf i = some (p, bytes)) :
    ∃ lead arguments, bytes = lead :: arguments ∧ ArgumentsFit lead arguments ∧ requestOf p lead arguments = some i := by
  cases i with
  | status q => cases h; exact ⟨_, _, rfl, rfl, rfl⟩
  | read q r => cases h; exact ⟨_, _, rfl, rfl, rfl⟩
  | scan q a b d => cases h; exact ⟨_, _, rfl, rfl, rfl⟩
  | windows q => cases h; exact ⟨_, _, rfl, rfl, rfl⟩
  | beginTxn q => cases h; exact ⟨_, _, rfl, rfl, rfl⟩
  | stageWrite q r e v data =>
    cases h
    have size : (byteOf data.length).toNat = data.length := by
      have := of_decide_eq_true wf
      rw [byteOf, BitVec.toNat_ofNat]
      omega
    refine ⟨_, _, rfl, ?_, ?_⟩
    · rw [ArgumentsFit, requestLength_of_byArgument rfl]
      simp [be16, size]
      omega
    · exact congrArg (fun v => some (Instr.stageWrite p r e v data)) (append_bytes_of_version v)
  | stageDelete q r e v =>
    cases h
    exact ⟨_, _, rfl, rfl, congrArg (fun v => some (Instr.stageDelete p r e v)) (append_bytes_of_version v)⟩
  | dropEntry q r => cases h; exact ⟨_, _, rfl, rfl, rfl⟩
  | commit q => cases h; exact ⟨_, _, rfl, rfl, rfl⟩
  | abort q => cases h; exact ⟨_, _, rfl, rfl, rfl⟩
  | lease q w x => cases h; exact ⟨_, _, rfl, rfl, rfl⟩
  | renew q w => cases h; exact ⟨_, _, rfl, rfl, rfl⟩
  | release q w => cases h; exact ⟨_, _, rfl, rfl, rfl⟩
  | breakLease q w => cases h; exact ⟨_, _, rfl, rfl, rfl⟩
  | watch q a => cases h; exact ⟨_, _, rfl, rfl, rfl⟩
  | unwatch q a => cases h; exact ⟨_, _, rfl, rfl, rfl⟩
  | defineWindow q w b z x y => cases h; exact ⟨_, _, rfl, rfl, rfl⟩
  | clearWindow q w => cases h; exact ⟨_, _, rfl, rfl, rfl⟩
  | format q => cases h; exact ⟨_, _, rfl, rfl, rfl⟩
  | portReset q => cases h; exact ⟨_, _, rfl, rfl, rfl⟩
  | _ => cases h

/-- Settles O3: a good frame is a lead byte with arguments that fit it, and such arguments and well-formed requests
correspond. -/
theorem goodFrameNamesRequest : Obligations.GoodFrameNamesRequest := by
  refine ⟨fun i p bytes wf h => ?_, fun p bytes lead arguments good => ?_⟩
  · obtain ⟨⟨q, covered⟩, args, pair⟩ := Option.map_eq_some_iff.mp h
    obtain ⟨rfl, rfl⟩ := Prod.mk.inj pair
    obtain ⟨lead, arguments, rfl, fit, named⟩ := ArgumentsFit.of_argumentsOf wf args
    exact ⟨lead, arguments, judgeBytes_eq_good_iff.mpr ⟨rfl, fit⟩, named⟩
  · obtain ⟨rfl, fit⟩ := judgeBytes_eq_good_iff.mp good
    obtain ⟨i, named, wf, args⟩ := fit.request p
    exact ⟨i, named, wf, by rw [frameOf, args]; rfl⟩

end Sys2Proof.Machine
end

section
/-!
SUPPORT. O29: the bytes of a RESULT frame on a held result or an empty holder (R150, R172).
-/

namespace Sys2Proof.Machine

/-- The bytes of a held result from position `k` on, with the filler that follows them (R150). -/
def heldBytes (content : List Byte) (k n : Nat) : List Byte := (List.range n).map fun j => content.getD (k + j) 0xFF

theorem heldBytes_succ (content : List Byte) (k n : Nat) :
    heldBytes content k (n + 1) = content.getD k 0xFF :: heldBytes content (k + 1) n := by
  simp [heldBytes, List.range_succ_eq_map, Function.comp_def, Nat.add_assoc, Nat.add_comm 1]

/-- In a RESULT frame on a held result each acknowledge sends the next byte or filler, without end (R150). -/
theorem State.ackBytes_held (s : State) (n : Nat) {c : PortState} {content : List Byte} {k timer : Nat}
    (hc : c.controller = .response ⟨.result, .held content, k, timer⟩) :
    s.ackBytes (n + 1) c
      = { c with
          controller := .response ⟨.result, .held content, k + n + 1, 0⟩
          line := { c.line with sent := c.line.sent ++ heldBytes content (k + 1) (n + 1) } } := by
  have sends : s.ackByte c = c.sendNext ⟨.result, .held content, k, timer⟩ := by simp only [State.ackByte, hc]
  rw [State.ackBytes, sends, heldBytes_succ]
  induction n generalizing c k timer with
  | zero => rfl
  | succ m ih =>
    have next : s.ackByte (c.sendNext ⟨.result, .held content, k, timer⟩)
        = (c.sendNext ⟨.result, .held content, k, timer⟩).sendNext ⟨.result, .held content, k + 1, 0⟩ := rfl
    rw [State.ackBytes, next, ih rfl next, heldBytes_succ]
    simp [PortState.sendNext, Slot.byteAt, Nat.add_assoc, Nat.add_comm 1]

/-- A response on a holder that is no scan opens with its first byte (R150, R172). -/
theorem State.openResponse_of_no_scan (s : State) {c : PortState} (hh : ∀ cursor, c.holder ≠ .scan cursor) :
    s.openResponse .result c
      = { c with
          controller := .response ⟨.result, .held (heldContent c.holder), 0, 0⟩
          line := ⟨[true], [(heldContent c.holder).getD 0 0xFF]⟩ } := by
  unfold State.openResponse
  cases h : c.holder with
  | empty => rfl
  | result _ _ => rfl
  | scan cursor => exact absurd h (hh cursor)

/-- A RESULT frame on a holder that is no scan opens, and the host acknowledges `n` bytes of it (R147, R150). -/
theorem State.respond_result_opens (s : State) {c : PortState} (n : Nat)
    (hh : ∀ cursor, c.endOpenFrame.holder ≠ .scan cursor) :
    s.respond .result 0x80 (.opens n) c
      = { c.endOpenFrame with
          controller := .response ⟨.result, .held (heldContent c.endOpenFrame.holder), n, 0⟩
          line := ⟨[true], heldBytes (heldContent c.endOpenFrame.holder) 0 (n + 1)⟩ } := by
  obtain ⟨controller, opened⟩ := c.openFrame_eq
  have opens := s.openResponse_of_no_scan (c := c.openFrame) (by rw [opened]; exact hh)
  rw [State.respond, State.leadByte_result, opens, opened, heldBytes_succ]
  cases n with
  | zero => rfl
  | succ m =>
    rw [s.ackBytes_held m rfl, Nat.zero_add]
    rfl

/-- Settles O29: the first byte by what the holder sends, those after it by the acknowledges. -/
theorem resultFrameSends : Obligations.ResultFrameSends := by
  intro p n s hr
  refine ⟨fun hh => ?_, fun content k timer hc => ?_⟩
  · rw [exec_resultFrame hr]
    refine congrArg _ (State.onPort_congr ((s.respond_result_opens n hh).trans ?_))
    simp only [heldBytes, Nat.zero_add]
  · rw [exec_result_goesOn hr p hc rfl]
    refine congrArg _ (State.onPort_congr ?_)
    rw [s.goOn_of_taken hc nofun, s.ackBytes_held n hc]
    rfl

end Sys2Proof.Machine
end

section
/-!
SUPPORT. O26: a request frame that is read from the levels and is not executed (R144 to R147).
-/

namespace Sys2Proof.Machine

/-! ## A request frame taken bit by bit (R142, R144, R145) -/

theorem RequestFrame.take_lead (f : RequestFrame) (lead b : Byte) : (f.take lead b).1.lead = f.lead := by
  unfold RequestFrame.take
  cases codeLength lead with
  | unknown => rfl
  | fixed n =>
    simp only
    split <;> rfl
  | byArgument =>
    cases f.expected with
    | none => rfl
    | some n =>
      simp only
      split <;> rfl

theorem RequestFrame.takeAll_lead (f : RequestFrame) (lead : Byte) (bytes : List Byte) :
    (f.takeAll lead bytes).1.lead = f.lead := by
  induction bytes generalizing f with
  | nil => rfl
  | cons b rest ih => exact (ih _).trans (f.take_lead lead b)

section
variable (s : State)

/-- In a request frame with its lead byte the bytes are taken in turn, whatever stands in their acknowledge bits. -/
theorem State.foldl_linkNinth_of_lead {lead : Byte} (l : List (Byte × Option Bool)) {c : PortState} {f : RequestFrame}
    (hc : c.controller = .request f) (hl : f.lead = some lead) :
    l.foldl s.linkNinth c
      = { c with
          controller := .request (f.takeAll lead (l.map Prod.fst)).1
          line := { c.line with acks := c.line.acks ++ (f.takeAll lead (l.map Prod.fst)).2 } } := by
  induction l generalizing c f with
  | nil => simp [RequestFrame.takeAll, ← hc]
  | cons x rest ih =>
    have taken : s.linkNinth c x
        = { c with
            controller := .request (f.take lead x.1).1
            line := { c.line with acks := c.line.acks ++ [(f.take lead x.1).2] } } := by
      simp only [State.linkNinth, State.linkByte, hc, hl]
    rw [List.foldl_cons, taken, ih rfl ((f.take_lead lead x.1).trans hl)]
    simp [RequestFrame.takeAll]

/-- The bits of a request frame, from its lead byte on, at a port whose open frame has no lead byte yet. -/
theorem State.linkBits_of_request {bits : List Bool} {lead : Byte} {rest : List Byte}
    (bytes : completeBytes bits = lead :: rest) (marks : lead.msb = false) {c : PortState} {f : RequestFrame}
    (hc : c.controller = .request f) (hl : f.lead = none) :
    s.linkBits bits c
      = { c with
          controller := .request ((RequestFrame.withLead lead).takeAll lead rest).1
          line := ⟨true :: ((RequestFrame.withLead lead).takeAll lead rest).2, []⟩ } := by
  unfold completeBytes at bytes
  unfold State.linkBits
  cases taken : ninths bits with
  | nil =>
    rw [taken] at bytes
    cases bytes
  | cons x l =>
    rw [taken] at bytes
    obtain ⟨rfl, rfl⟩ := List.cons.inj bytes
    have first : s.linkNinth c x
        = { c with controller := .request (.withLead x.1), line := ⟨[true], []⟩ } := by
      simp only [State.linkNinth, State.linkByte, hc, hl, State.leadByte, marks, if_true]
    rw [List.foldl_cons, first, s.foldl_linkNinth_of_lead l rfl rfl]
    rfl

end

/-- A start ends the open frame and leaves a frame without lead byte open (R144, R147). -/
theorem PortState.openFrame_request (c : PortState) :
    ∃ f, f.lead = none ∧ c.openFrame = { c.endOpenFrame with controller := .request f } := by
  unfold PortState.openFrame PortState.linkStart PortState.endOpenFrame
  cases hc : c.controller with
  | idle => exact ⟨.start, rfl, rfl⟩
  | response f => exact ⟨.start, rfl, rfl⟩
  | request f =>
    cases hl : f.lead with
    | none => exact ⟨f, hl, by simp [hl, ← hc]⟩
    | some b => exact ⟨.start, rfl, by simp [hl, badFrameResult, subReasonTruncated]⟩

/-- The port after the bits of a request frame that it has read. -/
def PortState.inRequest (c : PortState) (lead : Byte) (rest : List Byte) : PortState :=
  { c.endOpenFrame with
    controller := .request ((RequestFrame.withLead lead).takeAll lead rest).1
    line := ⟨true :: ((RequestFrame.withLead lead).takeAll lead rest).2, []⟩ }

theorem State.linkBits_openFrame (s : State) (c : PortState) {bits : List Bool} {lead : Byte} {rest : List Byte}
    (bytes : completeBytes bits = lead :: rest) (marks : lead.msb = false) :
    s.linkBits bits c.openFrame = c.inRequest lead rest := by
  obtain ⟨f, hl, opened⟩ := c.openFrame_request
  rw [opened, s.linkBits_of_request bytes marks rfl hl]
  rfl

/-! ## The frame that the levels spell -/

theorem State.frameBits_of_readFrame {s : State} {c : PortState} {wave : List LinkLevels} {bits : List Bool}
    {ending : FrameEnd} (h : s.readFrame c wave = some (bits, ending)) : s.frameBits c wave ending = some bits := by
  simp only [State.frameBits, h, if_true]

theorem State.frameBits_eq_none {s : State} {c : PortState} {wave : List LinkLevels} {ending : FrameEnd}
    (h : ∀ bits, s.readFrame c wave ≠ some (bits, ending)) : s.frameBits c wave ending = none := by
  unfold State.frameBits
  cases read : s.readFrame c wave with
  | none => rfl
  | some x =>
    obtain ⟨bits, found⟩ := x
    refine if_neg ?_
    rintro rfl
    exact h bits read

/-! ## The judging of a frame that is not good (R146) -/

/-- The result that a frame which is not good leaves, by its lead byte and whether its bytes are as many as the request
has. -/
def badResult (lead : Byte) (fits : Bool) : ResultHolder :=
  if codeLength lead = .unknown then .result .unknown []
  else if fits then .result .badFrame [0x02] else .result .badFrame [0x01]

theorem judgeBytes_result (lead : Byte) (rest : List Byte) :
    (∃ arguments, judgeBytes (lead :: rest) = .good lead arguments)
      ∨ (judgeBytes (lead :: rest)).result
          = some (badResult lead (decide (some (rest.length + 1) = requestLength lead rest)))
        ∧ ∀ first arguments, judgeBytes (lead :: rest) ≠ .good first arguments := by
  by_cases code : codeLength lead = .unknown
  · rw [judgeBytes_of_unknown code]
    exact .inr ⟨by rw [badResult, if_pos code]; rfl, nofun⟩
  · rw [judgeBytes_of_known code]
    by_cases length : requestLength lead rest = some (rest.length + 1)
    · rw [if_pos length]
      split
      · exact .inl ⟨_, rfl⟩
      · exact .inr ⟨by rw [badResult, if_neg code, if_pos (decide_eq_true length.symm)]; rfl, nofun⟩
    · rw [if_neg length]
      exact .inr ⟨by rw [badResult, if_neg code, if_neg (by simpa using Ne.symm length)]; rfl, nofun⟩

/-- The stop of a request frame: a good one is no event, any other leaves its result (R146, log entry 25). -/
theorem State.badFrameAt_of_request (s : State) (c : PortState) {bits : List Bool} {lead : Byte} {rest : List Byte}
    (bytes : completeBytes bits = lead :: rest) (marks : lead.msb = false) :
    s.badFrameAt bits c
      = if notGoodFrame bits then
          { c with
            controller := .idle
            line := ⟨true :: ((RequestFrame.withLead lead).takeAll lead rest).2, []⟩
            holder := badResult lead (decide (some (rest.length + 1) = requestLength lead rest)) }
        else c := by
  have judged : ((RequestFrame.withLead lead).takeAll lead rest).1.judge = judgeBytes (lead :: rest) := rfl
  rw [State.badFrameAt, s.linkBits_openFrame c bytes marks, notGoodFrame, bytes]
  simp only [PortState.inRequest, PortState.linkStop, judged]
  rcases judgeBytes_result lead rest with ⟨arguments, good⟩ | ⟨result, notGood⟩
  · simp only [good]
    rfl
  · rw [result]
    cases verdict : judgeBytes (lead :: rest) with
    | good first arguments => exact absurd verdict (notGood first arguments)
    | noRequest => 
      rw [verdict] at result
      cases result
    | unknown => rfl
    | badLength => rfl
    | badCheck => rfl

/-! ## The commands -/

section
variable {s : State} (hr : s.inReset = false) (p : Port) (wave : List LinkLevels)
include hr

theorem exec_badFrame :
    exec (.badFrame p wave) s = .next (s.onPort p fun c => match s.frameBits c wave .stopped with
      | some bits => s.badFrameAt bits c
      | none => c) := by
  simp only [exec, execBadFrame, State.atLink, hr]
  rfl

theorem exec_truncated :
    exec (.truncated p wave) s = .next (s.onPort p fun c => match s.frameBits c wave .restarted with
      | some bits => (s.linkBits bits c.openFrame).linkStart
      | none => c) := by
  simp only [exec, execTruncated, State.atLink, hr]
  rfl

end

/-- A request frame that a stop ends (R146). -/
theorem exec_badFrame_of_request {s : State} (hr : s.inReset = false) {p : Port} {wave : List LinkLevels}
    {bits : List Bool} {lead : Byte} {rest : List Byte} (read : s.readFrame (s.port p) wave = some (bits, .stopped))
    (bytes : completeBytes bits = lead :: rest) (marks : lead.msb = false) :
    exec (.badFrame p wave) s
      = .next (if notGoodFrame bits then s.onPort p fun c =>
          { c with
            controller := .idle
            line := ⟨true :: ((RequestFrame.withLead lead).takeAll lead rest).2, []⟩
            holder := badResult lead (decide (some (rest.length + 1) = requestLength lead rest)) }
        else s) := by
  have judged := s.badFrameAt_of_request (s.port p) bytes marks
  have found := State.frameBits_of_readFrame read
  rw [exec_badFrame hr]
  refine congrArg _ ?_
  by_cases notGood : notGoodFrame bits = true
  · rw [if_pos notGood] at judged ⊢
    refine State.onPort_congr ?_
    simp only [found]
    exact judged
  · rw [if_neg notGood] at judged ⊢
    refine State.onPort_unchanged ?_
    simp only [found]
    exact judged

/-- A request frame that a repeated start ends (R147). -/
theorem exec_truncated_of_request {s : State} (hr : s.inReset = false) {p : Port} {wave : List LinkLevels}
    {bits : List Bool} {lead : Byte} {rest : List Byte} (read : s.readFrame (s.port p) wave = some (bits, .restarted))
    (bytes : completeBytes bits = lead :: rest) (marks : lead.msb = false) :
    exec (.truncated p wave) s
      = .next (s.onPort p fun c =>
          { c with
            controller := .request .start
            line := ⟨true :: ((RequestFrame.withLead lead).takeAll lead rest).2, []⟩
            holder := badFrameResult subReasonTruncated }) := by
  have complete : ((RequestFrame.withLead lead).takeAll lead rest).1.lead = some lead := RequestFrame.takeAll_lead _ _ _
  have found := State.frameBits_of_readFrame read
  rw [exec_truncated hr]
  refine congrArg _ (State.onPort_congr ?_)
  simp only [found, s.linkBits_openFrame _ bytes marks, PortState.inRequest, PortState.linkStart, complete]
  rfl

/-- Settles O26: the levels are read as a request frame, whose stop is judged and whose repeated start truncates it. -/
theorem badFramesAreAnswered : Obligations.BadFramesAreAnswered := by
  intro p wave s hr
  refine ⟨fun ending bits lead rest read bytes marks => ⟨?_, ?_⟩, fun other => ?_, fun other => ?_⟩
  · rintro rfl
    rw [exec_badFrame_of_request hr read bytes marks]
    cases code : codeLength lead with
    | unknown => simp [badResult, code]
    | fixed n => simp [badResult, code, requestLength_of_fixed code]
    | byArgument =>
      cases argument : rest[4]? <;> simp [badResult, code, requestLength_of_byArgument code, argument]
  · rintro rfl
    exact exec_truncated_of_request hr read bytes marks
  · rw [exec_badFrame hr]
    refine congrArg _ (State.onPort_unchanged ?_)
    rw [State.frameBits_eq_none other]
  · rw [exec_truncated hr]
    refine congrArg _ (State.onPort_unchanged ?_)
    rw [State.frameBits_eq_none other]

end Sys2Proof.Machine
end

section
/-!
SUPPORT. O27: frames that the frame timer cuts short, and lead bytes of the bad form (R143, R144, R147, R148, R151).
-/

namespace Sys2Proof.Machine

/-! ## The frame timer (R143, R148) -/

/-- 25 ms without an edge end the open frame as a start does (R147, R148). -/
theorem PortState.timeRunsOut_eq (c : PortState) : c.timeRunsOut = c.endOpenFrame := by
  unfold PortState.timeRunsOut PortState.timerRuns PortState.endOpenFrame
  cases hc : c.controller with
  | idle =>
    simp only [PortState.timeout, hc]
    rw [← hc]
  | response f => simp [PortState.timeout]
  | request f =>
    cases hl : f.lead with
    | none => simp [PortState.timeout, hl]
    | some b => simp [PortState.timeout, hl, badFrameResult, subReasonTruncated]

/-- The end of a frame undoes what a start opened. -/
theorem PortState.endOpenFrame_openFrame (c : PortState) : c.openFrame.endOpenFrame = c.endOpenFrame := by
  obtain ⟨f, hl, opened⟩ := c.openFrame_request
  rw [opened]
  simp [PortState.endOpenFrame, hl]

/-! ## Acknowledges keep a response frame open (R151) -/

/-- A response frame is open. -/
def PortState.Responds (c : PortState) : Prop := ∃ f, c.controller = .response f

theorem PortState.Responds.endOpenFrame_eq {c : PortState} (h : c.Responds) :
    c.endOpenFrame = { c with controller := .idle } := by
  obtain ⟨f, hc⟩ := h
  simp only [PortState.endOpenFrame, hc]

section
variable (s : State) {c : PortState}

theorem State.beginNext_responds (channel : Channel) (h : c.Responds) : (s.beginNext channel c).Responds := by
  unfold State.beginNext
  cases channel with
  | result =>
    cases c.holder with
    | empty => exact h
    | result _ _ => exact h
    | scan cursor => exact ⟨_, rfl⟩
  | notice => cases c.notices <;> exact ⟨_, rfl⟩

theorem State.openResponse_responds (channel : Channel) : (s.openResponse channel c).Responds := by
  unfold State.openResponse
  cases channel with
  | result => cases c.holder <;> exact ⟨_, rfl⟩
  | notice =>
    simp only [State.beginNext_notice]
    exact ⟨_, rfl⟩

theorem State.ackByte_responds (h : c.Responds) : (s.ackByte c).Responds := by
  obtain ⟨f, hc⟩ := id h
  have within (content : List Byte) :
      (if f.position + 1 < content.length then c.sendNext f else c).Responds := by
    split
    · exact ⟨_, rfl⟩
    · exact h
  simp only [State.ackByte, hc]
  cases f.slot with
  | held _ => exact ⟨_, rfl⟩
  | scanStatus => exact s.beginNext_responds .result h
  | scanRecord _ _ content => exact within content
  | scanEnd content => exact within content
  | notice content => exact within content
  | noticeEnd content => exact within content
  | notTaken => exact h

theorem State.goOn_responds (h : c.Responds) : (s.goOn c).Responds := by
  obtain ⟨f, hc⟩ := id h
  simp only [State.goOn, hc]
  split
  · exact s.beginNext_responds _ h
  · exact h

theorem State.afterDelivery_responds (channel : Channel) (goesOn : Bool) : (s.afterDelivery channel goesOn c).Responds := by
  unfold State.afterDelivery
  cases goesOn with
  | true => exact s.goOn_responds (c := { c with controller := .response ⟨channel, .notTaken, 0, 0⟩ }) ⟨_, rfl⟩
  | false => exact ⟨_, rfl⟩

theorem State.deliverBlock_responds (goesOn : Bool) (h : c.Responds) : (s.deliverBlock goesOn c).Responds := by
  unfold State.deliverBlock
  split
  · split
    · split
      · exact s.afterDelivery_responds .result goesOn
      · exact h
    · split
      · exact s.afterDelivery_responds .result goesOn
      · exact h
    · exact h
  · exact h

theorem State.deliverNotice_responds (goesOn : Bool) (h : c.Responds) : (s.deliverNotice goesOn c).Responds := by
  unfold State.deliverNotice
  split
  · split
    · split
      · exact s.afterDelivery_responds .notice goesOn
      · exact h
    · split
      · exact s.afterDelivery_responds .notice goesOn
      · exact h
    · exact h
  · exact h

theorem State.hostAck_responds (h : c.Responds) : (s.hostAck c).Responds := by
  obtain ⟨f, hc⟩ := id h
  have block (content : List Byte) :
      (if f.atCheck content then s.deliverBlock true c else s.ackByte c).Responds := by
    split
    · exact s.deliverBlock_responds true h
    · exact s.ackByte_responds h
  have notice (content : List Byte) :
      (if f.atCheck content then s.deliverNotice true c else s.ackByte c).Responds := by
    split
    · exact s.deliverNotice_responds true h
    · exact s.ackByte_responds h
  simp only [State.hostAck, hc]
  cases f.slot with
  | held _ => exact s.ackByte_responds h
  | scanStatus => exact s.ackByte_responds h
  | scanRecord _ _ content => exact block content
  | scanEnd content => exact block content
  | notice content => exact notice content
  | noticeEnd content => exact notice content
  | notTaken => exact h

end

/-! ## The host's acknowledges rest on the records and the port alone -/

section
variable (s : State) (p : Port) (f : PortState → PortState)

@[simp] theorem State.hostAck_onPort (c : PortState) : (s.onPort p f).hostAck c = s.hostAck c := by
  simp only [State.hostAck, State.ackByte_onPort, State.deliverBlock, State.deliverNotice, State.afterDelivery,
    State.goOn_onPort]

@[simp] theorem State.hostAcks_onPort (n : Nat) (c : PortState) : (s.onPort p f).hostAcks n c = s.hostAcks n c := by
  induction n generalizing c with
  | zero => rfl
  | succ m ih => simp only [State.hostAcks, State.hostAck_onPort, ih]

end

/-! ## A response frame taken bit by bit (R142, R151) -/

/-- No byte follows one whose acknowledge bit has not been taken (R142). -/
def AcksInTurn : List (Byte × Option Bool) → Prop
  | [] => True
  | x :: rest => (x.2 = none → rest = []) ∧ AcksInTurn rest

theorem ninths_acksInTurn (bits : List Bool) : AcksInTurn (ninths bits) := by
  induction bits using ninths.induct with
  | case1 b7 b6 b5 b4 b3 b2 b1 b0 ack rest ih => exact ⟨nofun, ih⟩
  | case2 b7 b6 b5 b4 b3 b2 b1 b0 => exact ⟨fun _ => rfl, trivial⟩
  | case3 bits notNine notEight =>
    have none : ninths bits = [] := ninths.eq_3 bits notNine notEight
    exact none ▸ trivial

section
variable (s : State)

/-- In IDLE the bits pass unheeded (R143). -/
theorem State.foldl_linkNinth_of_idle (l : List (Byte × Option Bool)) {c : PortState} (hc : c.controller = .idle) :
    l.foldl s.linkNinth c = c := by
  induction l with
  | nil => rfl
  | cons x rest ih =>
    have unheeded : s.linkNinth c x = c := by simp only [State.linkNinth, hc]
    rw [List.foldl_cons, unheeded, ih]

/-- The first byte of a frame decides it (R144). -/
theorem State.linkBits_of_lead {bits : List Bool} {lead : Byte} {rest : List Byte}
    (bytes : completeBytes bits = lead :: rest) {c : PortState} {f : RequestFrame} (hc : c.controller = .request f)
    (hl : f.lead = none) :
    s.linkBits bits c = (ninths bits).tail.foldl s.linkNinth (s.leadByte lead c) := by
  unfold completeBytes at bytes
  unfold State.linkBits
  cases taken : ninths bits with
  | nil =>
    rw [taken] at bytes
    cases bytes
  | cons x l =>
    rw [taken] at bytes
    obtain ⟨rfl, -⟩ := List.cons.inj bytes
    have first : s.linkNinth c x = s.leadByte x.1 c := by simp only [State.linkNinth, State.linkByte, hc, hl]
    rw [List.foldl_cons, first, List.tail_cons]

/-- Once a response frame ends, its bits have done what the acknowledges before the first that failed do (R151). -/
theorem State.foldl_linkNinth_of_response {l : List (Byte × Option Bool)} (turn : AcksInTurn l) {c : PortState}
    (h : c.Responds) :
    (l.foldl s.linkNinth c).endOpenFrame
      = (s.hostAcks (l.takeWhile fun x => x.2 == some false).length c).endOpenFrame := by
  induction l generalizing c with
  | nil => rfl
  | cons x rest ih =>
    obtain ⟨last, turn⟩ := turn
    obtain ⟨f, hc⟩ := id h
    obtain ⟨b, ack⟩ := x
    match ack with
    | some false =>
      have acked : s.linkNinth c (b, some false) = s.hostAck c := by simp only [State.linkNinth, hc]
      rw [List.foldl_cons, acked, ih turn (s.hostAck_responds h)]
      rfl
    | some true =>
      have ends : s.linkNinth c (b, some true) = { c with controller := .idle } := by simp only [State.linkNinth, hc]
      rw [List.foldl_cons, ends, s.foldl_linkNinth_of_idle rest rfl]
      exact h.endOpenFrame_eq.symm
    | none =>
      have waits : s.linkNinth c (b, none) = c := by simp only [State.linkNinth, hc]
      rw [List.foldl_cons, waits, last rfl]
      rfl

end

/-! ## The commands -/

theorem AcksInTurn.tail {l : List (Byte × Option Bool)} (h : AcksInTurn l) : AcksInTurn l.tail := by
  cases l with
  | nil => trivial
  | cons _ _ => exact h.2

theorem exec_frameTimeout {s : State} (hr : s.inReset = false) (p : Port) (wave : List LinkLevels) :
    exec (.frameTimeout p wave) s = .next (s.onPort p (s.timeoutAt wave)) := by
  simp only [exec, execFrameTimeout, State.atLink, hr]
  rfl

/-- A lead byte is of the bad form from 0x82 on (R144). -/
theorem badLead_iff : ∀ b : Byte, badLead b = true ↔ 129 < b.toNat := by decide +kernel

theorem msb_eq_false_iff (b : Byte) : b.msb = false ↔ b.toNat < 128 := by
  rw [BitVec.msb_eq_decide]
  simp

/-- A lead byte of the bad form is not acknowledged, and the controller is IDLE (R144). -/
theorem State.leadByte_of_bad (s : State) {lead : Byte} (bad : 129 < lead.toNat) (c : PortState) :
    s.leadByte lead c.openFrame = { c.endOpenFrame with line := ⟨[false], []⟩ } := by
  have response : ¬lead.msb = false := fun request => by
    have := (msb_eq_false_iff lead).mp request
    omega
  obtain ⟨f, -, opened⟩ := c.openFrame_request
  rw [State.leadByte, if_neg response, if_pos ((badLead_iff lead).mpr bad), opened]
  rfl

section
variable {s : State} (hr : s.inReset = false) {p : Port} {wave : List LinkLevels} {bits : List Bool}
  (levels : wave ≠ []) (read : s.readFrame (s.port p) wave = some (bits, .unended))
include hr levels read

/-- The frame that the levels leave open ends when the timer has run (R148). -/
theorem exec_frameTimeout_of_frame {d : PortState → PortState}
    (ends : (s.linkBits bits (s.port p).openFrame).endOpenFrame = d (s.port p)) :
    exec (.frameTimeout p wave) s = .next (s.onPort p d) := by
  rw [exec_frameTimeout hr]
  refine congrArg _ (State.onPort_congr ?_)
  rw [← ends, State.timeoutAt, if_neg (by simpa using levels), State.frameBits_of_readFrame read]
  exact PortState.timeRunsOut_eq _

theorem exec_frameTimeout_of_request {lead : Byte} {rest : List Byte} (bytes : completeBytes bits = lead :: rest)
    (request : lead.toNat < 128) :
    exec (.frameTimeout p wave) s
      = .next (s.onPort p fun c =>
          { c.endOpenFrame with
            line := ⟨true :: ((RequestFrame.withLead lead).takeAll lead rest).2, []⟩
            holder := .result .badFrame [0x03] }) := by
  have complete : ((RequestFrame.withLead lead).takeAll lead rest).1.lead = some lead := RequestFrame.takeAll_lead _ _ _
  refine exec_frameTimeout_of_frame hr levels read ?_
  rw [s.linkBits_openFrame _ bytes ((msb_eq_false_iff lead).mpr request)]
  simp only [PortState.inRequest, PortState.endOpenFrame, complete]
  rfl

theorem exec_frameTimeout_of_bad {lead : Byte} {rest : List Byte} (bytes : completeBytes bits = lead :: rest)
    (bad : 129 < lead.toNat) :
    exec (.frameTimeout p wave) s = .next (s.onPort p fun c => { c.endOpenFrame with line := ⟨[false], []⟩ }) := by
  refine exec_frameTimeout_of_frame hr levels read ?_
  obtain ⟨f, hl, opened⟩ := (s.port p).openFrame_request
  rw [s.linkBits_of_lead bytes (f := f) (by rw [opened]) hl, s.leadByte_of_bad bad, s.foldl_linkNinth_of_idle _ rfl]
  rfl

theorem exec_frameTimeout_of_response {lead : Byte} {rest : List Byte} (bytes : completeBytes bits = lead :: rest)
    (response : lead.toNat = 128 ∨ lead.toNat = 129) :
    ∃ t, exec (if lead.toNat = 128 then .resultFrame p (.opens 0) else .noticeFrame p (.opens 0)) s = .next t
      ∧ exec (.frameTimeout p wave) s = .next (t.onPort p fun c =>
          (t.hostAcks ((ninths bits).tail.takeWhile fun x => x.2 == some false).length c).endOpenFrame) := by
  obtain ⟨f, hl, opened⟩ := (s.port p).openFrame_request
  have start := s.linkBits_of_lead bytes (f := f) (c := (s.port p).openFrame) (by rw [opened]) hl
  refine ⟨s.onPort p fun c => s.leadByte lead c.openFrame, ?_, ?_⟩
  · rcases response with result | notice
    · obtain rfl : lead = 0x80 := BitVec.eq_of_toNat_eq result
      exact exec_resultFrame hr p _
    · obtain rfl : lead = 0x81 := BitVec.eq_of_toNat_eq notice
      exact exec_noticeFrame hr p _
  · have opens : (s.leadByte lead (s.port p).openFrame).Responds := by
      rcases response with result | notice
      · obtain rfl : lead = 0x80 := BitVec.eq_of_toNat_eq result
        exact s.openResponse_responds .result
      · obtain rfl : lead = 0x81 := BitVec.eq_of_toNat_eq notice
        exact s.openResponse_responds .notice
    simp only [State.onPort_onPort, State.hostAcks_onPort]
    refine exec_frameTimeout_of_frame hr levels read ?_
    rw [start]
    exact s.foldl_linkNinth_of_response (ninths_acksInTurn bits).tail opens

end

/-- Settles O27: the frame that the levels leave open by its lead byte, and the end of whatever is open. -/
theorem framesAreCutShort : Obligations.FramesAreCutShort := by
  intro p s hr
  refine ⟨?_, fun wave levels other => ?_, fun wave bits levels read => ⟨fun noByte => ?_, fun lead rest bytes =>
    ⟨fun request => ?_, fun response => ?_, fun bad => ?_⟩⟩, fun lead => ?_⟩
  · rw [exec_frameTimeout hr]
    exact congrArg _ (State.onPort_congr (PortState.timeRunsOut_eq _))
  · rw [exec_frameTimeout hr]
    refine congrArg _ (State.onPort_unchanged ?_)
    rw [State.timeoutAt, if_neg (by simpa using levels), State.frameBits_eq_none other]
  · refine exec_frameTimeout_of_frame hr levels read ?_
    have nothing : s.linkBits bits (s.port p).openFrame = (s.port p).openFrame := by
      rw [State.linkBits, List.map_eq_nil_iff.mp noByte]
      rfl
    rw [nothing, PortState.endOpenFrame_openFrame]
  · exact exec_frameTimeout_of_request hr levels read bytes request
  · exact exec_frameTimeout_of_response hr levels read bytes response
  · exact exec_frameTimeout_of_bad hr levels read bytes bad
  · have read : exec (.badLeadByte p lead) s
        = .next (s.onPort p fun c => if badLead lead then s.leadByte lead c.openFrame else c) := by
      simp only [exec, execBadLeadByte, State.atLink, hr]
      rfl
    rw [read]
    by_cases bad : 129 < lead.toNat
    · rw [if_neg (by omega)]
      refine congrArg _ (State.onPort_congr ?_)
      rw [if_pos ((badLead_iff lead).mpr bad), s.leadByte_of_bad bad]
    · rw [if_pos (by omega)]
      refine congrArg _ (State.onPort_unchanged ?_)
      rw [if_neg (mt (badLead_iff lead).mp bad)]

end Sys2Proof.Machine
end

section
/-!
SUPPORT. O28: the frames that a port reads from the levels of its host (R141, R142, R145).
-/

namespace Sys2Proof.Machine

/-! ## Whole bytes on the line (R142) -/

/-- The bits of a byte, most significant first. -/
def dataBits (b : Byte) : List Bool :=
  [b.getLsbD 7, b.getLsbD 6, b.getLsbD 5, b.getLsbD 4, b.getLsbD 3, b.getLsbD 2, b.getLsbD 1, b.getLsbD 0]

theorem bitsOfByte_eq (b : Byte) : bitsOfByte b = dataBits b ++ [true] := rfl

/-- The bits of bytes on the line, each with the level of its acknowledge bit. -/
def wireBits (l : List (Byte × Bool)) : List Bool := l.flatMap fun x => dataBits x.1 ++ [x.2]

theorem wireBits_append (l m : List (Byte × Bool)) : wireBits (l ++ m) = wireBits l ++ wireBits m := List.flatMap_append

theorem wireBits_concat (l : List (Byte × Bool)) (b : Byte) (level : Bool) :
    wireBits (l ++ [(b, level)]) = wireBits l ++ dataBits b ++ [level] := by
  rw [wireBits_append, List.append_assoc]
  simp [wireBits]

@[simp] theorem wireBits_length (l : List (Byte × Bool)) : (wireBits l).length = 9 * l.length := by
  induction l with
  | nil => rfl
  | cons x rest ih =>
    rw [wireBits, List.flatMap_cons, List.length_append, ← wireBits, ih]
    simp [dataBits]
    omega

/-- A byte is the one that its bits spell. -/
theorem byteOfBits_getLsbD (b : Byte) :
    byteOfBits (b.getLsbD 7) (b.getLsbD 6) (b.getLsbD 5) (b.getLsbD 4) (b.getLsbD 3) (b.getLsbD 2) (b.getLsbD 1)
      (b.getLsbD 0) = b := by
  have h := completeBytes_bitsOfBytes [b]
  exact List.head_eq_of_cons_eq h

theorem ninths_dataBits (b : Byte) : ninths (dataBits b) = [(b, none)] := by
  rw [dataBits, ninths, byteOfBits_getLsbD]

theorem ninths_of_short {bits : List Bool} (short : bits.length < 8) : ninths bits = [] := by
  refine ninths.eq_3 bits ?_ ?_
  · rintro b7 b6 b5 b4 b3 b2 b1 b0 ack rest rfl
    simp only [List.length_cons] at short
    omega
  · rintro b7 b6 b5 b4 b3 b2 b1 b0 rfl
    simp at short

/-- The bytes among whole bytes and what follows them. -/
theorem ninths_wireBits_append (l : List (Byte × Bool)) (bits : List Bool) :
    ninths (wireBits l ++ bits) = (l.map fun x => (x.1, some x.2)) ++ ninths bits := by
  induction l with
  | nil => rfl
  | cons x rest ih =>
    have first : wireBits (x :: rest) ++ bits = dataBits x.1 ++ x.2 :: (wireBits rest ++ bits) := by
      simp [wireBits]
    rw [first, dataBits]
    simp only [List.cons_append, List.nil_append, ninths, byteOfBits_getLsbD, ih, List.map_cons]

section
variable (s : State) (c : PortState) (l : List (Byte × Bool))

theorem State.linkBits_append (bits : List Bool) :
    s.linkBits (wireBits l ++ bits) c = (ninths bits).foldl s.linkNinth (s.linkBits (wireBits l) c) := by
  have whole := ninths_wireBits_append l []
  rw [List.append_nil] at whole
  rw [State.linkBits, State.linkBits, ninths_wireBits_append, whole, List.foldl_append, List.foldl_append]
  rfl

/-- Bits of a byte under way do nothing yet. -/
theorem State.linkBits_within {bits : List Bool} (short : bits.length < 8) :
    s.linkBits (wireBits l ++ bits) c = s.linkBits (wireBits l) c := by
  rw [State.linkBits_append, ninths_of_short short]
  rfl

theorem State.linkBits_dataBits (b : Byte) :
    s.linkBits (wireBits l ++ dataBits b) c = s.linkNinth (s.linkBits (wireBits l) c) (b, none) := by
  rw [State.linkBits_append, ninths_dataBits]
  rfl

theorem State.linkBits_concat (b : Byte) (level : Bool) :
    s.linkBits (wireBits (l ++ [(b, level)])) c = s.linkNinth (s.linkBits (wireBits l) c) (b, some level) := by
  have byte := ninths_wireBits_append [(b, level)] []
  rw [List.append_nil] at byte
  rw [wireBits_append, State.linkBits_append, byte]
  rfl

/-! ## The bits that the part takes (R141) -/

/-- The bits that the part takes after `bits` while the host drives these, in the frame open at the port `c`. -/
def State.bitsTaken (s : State) (c : PortState) (bits : List Bool) : List Bool → List Bool
  | [] => bits
  | h :: rest => s.bitsTaken c (bits ++ [openDrain h (s.drivesAfter c bits)]) rest

/-- What the part does to the line within a byte rests on the port as the whole bytes before it have left it. -/
theorem State.drivesAfter_within {bits : List Bool} (short : bits.length < 8) :
    s.drivesAfter c (wireBits l ++ bits)
      = (s.linkBits (wireBits l) c).drives (decide (9 * l.length + bits.length ≤ 8)) bits.length := by
  have place : (wireBits l ++ bits).length % 9 = bits.length := by
    rw [List.length_append, wireBits_length]
    omega
  rw [State.drivesAfter, s.linkBits_within c l short, place, List.length_append, wireBits_length]

theorem State.drivesAfter_dataBits (b : Byte) :
    s.drivesAfter c (wireBits l ++ dataBits b)
      = (s.linkNinth (s.linkBits (wireBits l) c) (b, none)).drives (decide (l = [])) 8 := by
  have place : (wireBits l ++ dataBits b).length = 9 * l.length + 8 := by
    rw [List.length_append, wireBits_length]
    rfl
  have first : decide (9 * l.length + 8 ≤ 8) = decide (l = []) := by
    rw [decide_eq_decide, ← List.length_eq_zero_iff]
    omega
  have eight : (9 * l.length + 8) % 9 = 8 := by omega
  rw [State.drivesAfter, State.linkBits_dataBits, place, first, eight]

/-- The bits of one byte as the host drives them and the part joins in. -/
theorem State.bitsTaken_byte {drives : Nat → Bool}
    (data : ∀ k < 8, (s.linkBits (wireBits l) c).drives (decide (9 * l.length + k ≤ 8)) k = drives k)
    (h7 h6 h5 h4 h3 h2 h1 h0 : Bool) (rest : List Bool) :
    s.bitsTaken c (wireBits l) (h7 :: h6 :: h5 :: h4 :: h3 :: h2 :: h1 :: h0 :: rest)
      = s.bitsTaken c (wireBits l ++ [h7 && drives 0, h6 && drives 1, h5 && drives 2, h4 && drives 3, h3 && drives 4,
          h2 && drives 5, h1 && drives 6, h0 && drives 7]) rest := by
  have within (bits : List Bool) (short : bits.length < 8) :
      s.drivesAfter c (wireBits l ++ bits) = drives bits.length := by
    rw [s.drivesAfter_within c l short, data _ short]
  have first := within [] (by decide)
  rw [List.append_nil] at first
  simp only [State.bitsTaken, openDrain, List.append_assoc, List.cons_append, List.nil_append, first, within,
    List.length_cons, List.length_nil, Nat.reduceLT, Nat.reduceAdd]

end

/-! ## A request frame on the line (R145) -/

section
variable (s : State) (c : PortState)

/-- In a request frame the part leaves the line to the host but for its acknowledges (R141). -/
theorem PortState.drives_of_request {c : PortState} {f : RequestFrame} (hc : c.controller = .request f) (lead : Bool) {k : Nat}
    (hk : k < 8) : c.drives lead k = true := by
  simp only [PortState.drives, hc, if_neg (Nat.ne_of_lt hk)]

/-- A byte that the host sends in a request frame: the part acknowledges it or not in the ninth bit. -/
theorem State.bitsTaken_requestByte (l : List (Byte × Bool)) {b : Byte} {acked : Bool} {f f' : RequestFrame}
    (hc : (s.linkBits (wireBits l) c).controller = .request f)
    (hc' : (s.linkByte (s.linkBits (wireBits l) c) b).controller = .request f')
    (ack : (s.linkByte (s.linkBits (wireBits l) c) b).line.acks.getLast? = some acked) (rest : List Bool) :
    s.bitsTaken c (wireBits l) (bitsOfByte b ++ rest) = s.bitsTaken c (wireBits (l ++ [(b, !acked)])) rest := by
  have byte (level : Option Bool) :
      s.linkNinth (s.linkBits (wireBits l) c) (b, level) = s.linkByte (s.linkBits (wireBits l) c) b := by
    simp only [State.linkNinth, hc]
  have pulls : s.drivesAfter c (wireBits l ++ dataBits b) = !acked := by
    rw [s.drivesAfter_dataBits, byte]
    simp only [PortState.drives, hc', if_true, List.getLastD_eq_getLast?, ack, Option.getD_some]
  have data := s.bitsTaken_byte c l (drives := fun _ => true) (fun k hk => PortState.drives_of_request hc _ hk)
    (b.getLsbD 7) (b.getLsbD 6) (b.getLsbD 5) (b.getLsbD 4) (b.getLsbD 3) (b.getLsbD 2) (b.getLsbD 1) (b.getLsbD 0)
    (true :: rest)
  simp only [Bool.and_true] at data
  refine data.trans ?_
  change s.bitsTaken c (wireBits l ++ dataBits b) (true :: rest) = _
  rw [State.bitsTaken, pulls, wireBits_concat]
  rfl

/-- The bytes after the lead byte, with the acknowledges that R145 gives. -/
theorem State.bitsTaken_requestBytes (bytes : List Byte) {l : List (Byte × Bool)} {lead : Byte} {f : RequestFrame}
    (hc : (s.linkBits (wireBits l) c).controller = .request f) (hl : f.lead = some lead) :
    s.bitsTaken c (wireBits l) (bitsOfBytes bytes)
      = wireBits (l ++ bytes.zip ((f.takeAll lead bytes).2.map fun acked => !acked)) := by
  induction bytes generalizing l f with
  | nil =>
    rw [List.zip_nil_left, List.append_nil]
    rfl
  | cons b rest ih =>
    have taken : s.linkByte (s.linkBits (wireBits l) c) b
        = { s.linkBits (wireBits l) c with
            controller := .request (f.take lead b).1
            line := { (s.linkBits (wireBits l) c).line with
              acks := (s.linkBits (wireBits l) c).line.acks ++ [(f.take lead b).2] } } := by
      simp only [State.linkByte, hc, hl]
    have next : (s.linkBits (wireBits (l ++ [(b, !(f.take lead b).2)])) c).controller = .request (f.take lead b).1 := by
      rw [State.linkBits_concat]
      simp only [State.linkNinth, hc, taken]
    rw [bitsOfBytes, List.flatMap_cons, ← bitsOfBytes,
      s.bitsTaken_requestByte c l hc (acked := (f.take lead b).2) (by rw [taken]) (by rw [taken]; exact List.getLast?_concat),
      ih next ((f.take_lead lead b).trans hl), List.append_assoc]
    rfl

/-- A whole request frame from an open one without lead byte: the lead byte is acknowledged (R144), the others as R145
gives. -/
theorem State.bitsTaken_request {f : RequestFrame} (hc : c.controller = .request f) (hl : f.lead = none) {lead : Byte}
    (marks : lead.msb = false) (rest : List Byte) :
    s.bitsTaken c [] (bitsOfBytes (lead :: rest))
      = wireBits ((lead :: rest).zip
          ((true :: ((RequestFrame.withLead lead).takeAll lead rest).2).map fun acked => !acked)) := by
  have start : s.linkBits (wireBits []) c = c := rfl
  have taken : s.linkByte c lead = { c with controller := .request (.withLead lead), line := ⟨[true], []⟩ } := by
    simp only [State.linkByte, State.leadByte, hc, hl, marks, if_true]
  have next : (s.linkBits (wireBits ([] ++ [(lead, !true)])) c).controller = .request (.withLead lead) := by
    rw [State.linkBits_concat, start]
    simp only [State.linkNinth, hc, taken]
  have first := s.bitsTaken_requestByte c [] (b := lead) (acked := true) (start ▸ hc) (by rw [start, taken])
    (by rw [start, taken]; rfl) (bitsOfBytes rest)
  rw [bitsOfBytes, List.flatMap_cons, ← bitsOfBytes]
  refine first.trans ?_
  rw [s.bitsTaken_requestBytes c rest next rfl]
  rfl

end

/-! ## The reading of levels -/

section
variable (s : State) (c : PortState)

/-- The levels of bits that a host drives, read from a high clock on. -/
theorem State.readLevels_bits (bits : List Bool) {r : LinkReading} (opened : r.opened = true) (high : r.line.clock = true)
    (rest : List LinkLevels) :
    ∃ line part, line.clock = true ∧ s.readLevels c r (bits.flatMap bitLevels ++ rest)
      = s.readLevels c ⟨line, part, true, s.bitsTaken c.openFrame r.bits bits⟩ rest := by
  induction bits generalizing r with
  | nil => exact ⟨r.line, r.part, high, by rw [← opened]; rfl⟩
  | cons b more ih =>
    have level : s.readLevels c r ((b :: more).flatMap bitLevels ++ rest)
        = s.readLevels c ⟨⟨true, openDrain b (s.drivesAfter c.openFrame r.bits)⟩, s.drivesAfter c.openFrame r.bits, true,
            r.bits ++ [openDrain b (s.drivesAfter c.openFrame r.bits)]⟩ (more.flatMap bitLevels ++ rest) := by
      rw [List.flatMap_cons]
      simp only [bitLevels, List.cons_append, List.nil_append, State.readLevels, linkEvent, high, opened, if_true]
    rw [level]
    exact ih rfl rfl

/-- The levels that end a frame so. -/
def endLevels : FrameEnd → List LinkLevels
  | .unended => []
  | .stopped => [⟨false, false⟩, ⟨true, false⟩, ⟨true, true⟩]
  | .restarted => [⟨false, true⟩, ⟨true, true⟩, ⟨true, false⟩]

theorem frameLevels_eq (bits : List Bool) (ending : FrameEnd) :
    frameLevels bits ending = ⟨true, true⟩ :: ⟨true, false⟩ :: (bits.flatMap bitLevels ++ endLevels ending) := by
  cases ending <;> rfl

/-- The end of a frame after whole bytes, at a port that leaves the line to its host: at most one bit of another byte is
taken for it. -/
theorem State.readLevels_end (ending : FrameEnd) {r : LinkReading} (opened : r.opened = true) (high : r.line.clock = true)
    (whole : r.bits.length % 9 = 0) (free : ending = .unended ∨ s.drivesAfter c.openFrame r.bits = true) :
    ∃ more, more.length < 8 ∧ s.readLevels c r (endLevels ending) = some (r.bits ++ more, ending) := by
  have counts (b : Bool) : bitsAtEnd (r.bits ++ [b]) = r.bits ++ [b] := by
    rw [bitsAtEnd, if_neg]
    rw [List.length_append, List.length_singleton]
    omega
  cases ending with
  | unended => exact ⟨[], by decide, by simp [endLevels, State.readLevels, opened]⟩
  | stopped =>
    have released := free.resolve_left nofun
    exact ⟨[false], by decide, by simp [endLevels, State.readLevels, linkEvent, high, opened, released, openDrain, counts]⟩
  | restarted =>
    have released := free.resolve_left nofun
    exact ⟨[true], by decide, by simp [endLevels, State.readLevels, linkEvent, high, opened, released, openDrain, counts]⟩

/-- A frame that a host begins at an IDLE port is read as the bits that the part takes in it. -/
theorem State.readFrame_of_idle (hc : c.controller = .idle) {bits : List Bool} {l : List (Byte × Bool)} {ending : FrameEnd}
    (taken : s.bitsTaken c.openFrame [] bits = wireBits l)
    (free : ending = .unended ∨ s.drivesAfter c.openFrame (wireBits l) = true) :
    ∃ more, more.length < 8 ∧ s.readFrame c (frameLevels bits ending) = some (wireBits l ++ more, ending) := by
  have start : s.readFrame c (frameLevels bits ending)
      = s.readLevels c ⟨⟨true, false⟩, true, true, []⟩ (bits.flatMap bitLevels ++ endLevels ending) := by
    rw [frameLevels_eq]
    simp [State.readFrame, State.readLevels, PortState.drives, PortState.frameOpen, hc, openDrain, linkEvent]
  obtain ⟨line, part, high, read⟩ := s.readLevels_bits c bits (r := ⟨⟨true, false⟩, true, true, []⟩) rfl rfl
    (endLevels ending)
  rw [start, read, taken]
  refine s.readLevels_end c ending rfl high ?_ free
  simp only [wireBits_length]
  omega

end

theorem RequestFrame.takeAll_acks_length (f : RequestFrame) (lead : Byte) (bytes : List Byte) :
    (f.takeAll lead bytes).2.length = bytes.length := by
  induction bytes generalizing f with
  | nil => rfl
  | cons b rest ih => exact congrArg (· + 1) (ih _)

theorem ninths_wireBits (l : List (Byte × Bool)) {more : List Bool} (short : more.length < 8) :
    ninths (wireBits l ++ more) = l.map fun x => (x.1, some x.2) := by
  rw [ninths_wireBits_append, ninths_of_short short, List.append_nil]

/-- A host that sends a request frame on an IDLE port is read as its bytes, with the acknowledges of R145. -/
theorem State.readFrame_request (s : State) {c : PortState} (hc : c.controller = .idle) {lead : Byte} (marks : lead.msb = false)
    (rest : List Byte) (ending : FrameEnd) :
    ∃ bits, s.readFrame c (frameLevels (bitsOfBytes (lead :: rest)) ending) = some (bits, ending)
      ∧ ninths bits = (lead :: rest).zip
          ((true :: ((RequestFrame.withLead lead).takeAll lead rest).2).map fun acked => some !acked) := by
  have opened : c.openFrame = { c with controller := .request .start } := by
    simp only [PortState.openFrame, PortState.linkStart, hc]
  have taken := s.bitsTaken_request c.openFrame (f := .start) (by rw [opened]) rfl marks rest
  generalize hl : (lead :: rest).zip ((true :: ((RequestFrame.withLead lead).takeAll lead rest).2).map fun acked => !acked)
    = l at taken
  have ninth : (l.map fun x => (x.1, some x.2)) = (lead :: rest).zip
      ((true :: ((RequestFrame.withLead lead).takeAll lead rest).2).map fun acked => some !acked) := by
    rw [← hl, List.zip_map_right, List.zip_map_right, List.map_map]
    rfl
  have bytes : completeBytes (wireBits l) = lead :: rest := by
    have whole := ninths_wireBits l (more := []) (by decide)
    rw [List.append_nil] at whole
    rw [completeBytes, whole, ninth, List.map_fst_zip]
    simp [RequestFrame.takeAll_acks_length]
  have free : s.drivesAfter c.openFrame (wireBits l) = true := by
    have within := s.drivesAfter_within c.openFrame l (bits := []) (by decide)
    rw [List.append_nil] at within
    rw [within, s.linkBits_of_request bytes marks (f := .start) (by rw [opened]) rfl]
    exact PortState.drives_of_request rfl _ (by decide)
  obtain ⟨more, short, read⟩ := s.readFrame_of_idle c hc taken (ending := ending) (.inr free)
  exact ⟨_, read, (ninths_wireBits l short).trans ninth⟩

/-! ## A response frame on the line (R150 to R153) -/

/-- The byte that the part is sending. -/
def PortState.current (c : PortState) : Byte :=
  match c.controller with
  | .response f => f.slot.byteAt f.position
  | .idle => 0xFF
  | .request _ => 0xFF

/-- A response frame is open whose next byte every acknowledge brings (R150 to R153). -/
inductive PortState.Streams (c : PortState) : Prop where
  | held {f : ResponseFrame} {content : List Byte} (hc : c.controller = .response f) (slot : f.slot = .held content)
  | scanStatus {f : ResponseFrame} {cursor : ScanCursor} (hc : c.controller = .response f) (slot : f.slot = .scanStatus)
    (scans : c.holder = .scan cursor)
  | block {f : ResponseFrame} {content : List Byte} {cursor : ScanCursor} (hc : c.controller = .response f)
    (slot : (∃ r j, f.slot = .scanRecord r j content) ∨ f.slot = .scanEnd content) (within : f.position < content.length)
    (scans : c.holder = .scan cursor)
  | notice {f : ResponseFrame} {content : List Byte} (hc : c.controller = .response f)
    (slot : f.slot = .notice content ∨ f.slot = .noticeEnd content) (within : f.position < content.length)

/-- Port `d` sends one byte more than port `c`, and every acknowledge brings the next. -/
structure PortState.SendsOne (c d : PortState) : Prop where
  sent : d.line.sent = c.line.sent ++ [d.current]
  streams : d.Streams

section
variable (s : State) {c : PortState}

theorem PortState.SendsOne.of_line {d e : PortState} (one : d.SendsOne e) (line : d.line = c.line) : c.SendsOne e :=
  ⟨line ▸ one.sent, one.streams⟩

theorem PortState.Streams.responds (h : c.Streams) : c.Responds := by
  cases h with
  | held hc _ => exact ⟨_, hc⟩
  | scanStatus hc _ _ => exact ⟨_, hc⟩
  | block hc _ _ _ => exact ⟨_, hc⟩
  | notice hc _ _ => exact ⟨_, hc⟩

theorem withCheck_length_pos (covered : List Byte) : 0 < (withCheck covered).length := by simp [withCheck]

/-- The next block of a scan begins with its first byte (R15, R16, R152). -/
theorem State.beginNext_result_sendsOne {cursor : ScanCursor} (scans : c.holder = .scan cursor) :
    c.SendsOne (s.beginNext .result c) := by
  rw [s.beginNext_of_scan scans]
  refine ⟨rfl, ?_⟩
  unfold State.takeBlock
  split
  · exact .block rfl (.inr rfl) (withCheck_length_pos _) rfl
  · split
    · exact .block rfl (.inl ⟨_, _, rfl⟩) (withCheck_length_pos _) rfl
    · exact .block rfl (.inr rfl) (withCheck_length_pos _) rfl

/-- The next notice slot begins with its first byte (R134, R153). -/
theorem State.beginNext_notice_sendsOne (c : PortState) : c.SendsOne (s.beginNext .notice c) := by
  rw [s.beginNext_notice]
  refine ⟨rfl, ?_⟩
  cases c.notices with
  | nil => exact .notice rfl (.inr rfl) (withCheck_length_pos _)
  | cons n _ => exact .notice rfl (.inl rfl) (withCheck_length_pos _)

/-- A response frame opens with its first byte (R144). -/
theorem State.openResponse_sendsOne (channel : Channel) (c : PortState) :
    PortState.SendsOne { c with line := ⟨[true], []⟩ } (s.openResponse channel c) := by
  cases channel with
  | notice => exact s.beginNext_notice_sendsOne _
  | result =>
    unfold State.openResponse
    cases scans : c.holder with
    | empty => exact ⟨rfl, .held rfl rfl⟩
    | result _ _ => exact ⟨rfl, .held rfl rfl⟩
    | scan cursor => exact ⟨rfl, .scanStatus rfl rfl rfl⟩

/-- A delivery with which the host goes on brings the first byte of the next block or slot (R15, R134). -/
theorem State.afterDelivery_eq (channel : Channel) (d : PortState) :
    s.afterDelivery channel true d
      = s.beginNext channel { d with controller := .response ⟨channel, .notTaken, 0, 0⟩ } := by
  rw [State.afterDelivery, if_pos rfl]
  exact s.goOn_of_notTaken rfl

theorem State.hostAck_block_sendsOne {f : ResponseFrame} {content : List Byte} {cursor : ScanCursor}
    (hc : c.controller = .response f) (slot : (∃ r j, f.slot = .scanRecord r j content) ∨ f.slot = .scanEnd content)
    (within : f.position < content.length) (scans : c.holder = .scan cursor) : c.SendsOne (s.hostAck c) := by
  by_cases last : f.position + 1 = content.length
  · have check : f.atCheck content = true := by simpa [ResponseFrame.atCheck] using last
    rcases slot with ⟨r, j, slot⟩ | slot
    · simp only [State.hostAck, State.deliverBlock, hc, slot, check, scans, if_true, s.afterDelivery_eq]
      exact (s.beginNext_result_sendsOne (c := { c with
        controller := .response ⟨.result, .notTaken, 0, 0⟩, holder := .scan (cursor.delivered r j) }) rfl).of_line rfl
    · simp only [State.hostAck, State.deliverBlock, hc, slot, check, scans, if_true, s.afterDelivery_eq]
      exact (s.beginNext_result_sendsOne (c := { c with
        controller := .response ⟨.result, .notTaken, 0, 0⟩, holder := .scan cursor }) rfl).of_line rfl
  · have check : ¬f.atCheck content = true := by simpa [ResponseFrame.atCheck] using last
    have more : f.position + 1 < content.length := by omega
    have acked : s.hostAck c = c.sendNext f := by
      rcases slot with ⟨r, j, slot⟩ | slot <;>
        simp only [State.hostAck, State.ackByte, hc, slot, if_neg check, if_pos more]
    exact acked ▸ ⟨rfl, .block rfl slot more scans⟩

theorem State.hostAck_notice_sendsOne {f : ResponseFrame} {content : List Byte} (hc : c.controller = .response f)
    (slot : f.slot = .notice content ∨ f.slot = .noticeEnd content) (within : f.position < content.length) :
    c.SendsOne (s.hostAck c) := by
  by_cases last : f.position + 1 = content.length
  · have check : f.atCheck content = true := by simpa [ResponseFrame.atCheck] using last
    rcases slot with slot | slot
    · simp only [State.hostAck, State.deliverNotice, hc, slot, check, if_true, s.afterDelivery_eq]
      exact (s.beginNext_notice_sendsOne { c with
        controller := .response ⟨.notice, .notTaken, 0, 0⟩, notices := c.notices.drop 1 }).of_line rfl
    · simp only [State.hostAck, State.deliverNotice, hc, slot, check, if_true, s.afterDelivery_eq]
      exact (s.beginNext_notice_sendsOne { c with controller := .response ⟨.notice, .notTaken, 0, 0⟩ }).of_line rfl
  · have check : ¬f.atCheck content = true := by simpa [ResponseFrame.atCheck] using last
    have more : f.position + 1 < content.length := by omega
    have acked : s.hostAck c = c.sendNext f := by
      rcases slot with slot | slot <;>
        simp only [State.hostAck, State.ackByte, hc, slot, if_neg check, if_pos more]
    exact acked ▸ ⟨rfl, .notice rfl slot more⟩

/-- Each acknowledge of the host brings the next byte: of the slot, or of the next one behind its check byte (R151). -/
theorem State.hostAck_sendsOne (h : c.Streams) : c.SendsOne (s.hostAck c) := by
  cases h with
  | @held f content hc slot =>
    have acked : s.hostAck c = c.sendNext f := by simp only [State.hostAck, State.ackByte, hc, slot]
    exact acked ▸ ⟨rfl, .held rfl slot⟩
  | scanStatus hc slot scans =>
    have acked : s.hostAck c = s.beginNext .result c := by simp only [State.hostAck, State.ackByte, hc, slot]
    exact acked ▸ s.beginNext_result_sendsOne scans
  | block hc slot within scans => exact s.hostAck_block_sendsOne hc slot within scans
  | notice hc slot within => exact s.hostAck_notice_sendsOne hc slot within

/-- The bytes that the part sends while the host acknowledges `n` of them, the one being sent first. -/
def State.bytesSent (s : State) : Nat → PortState → List Byte
  | 0, _ => []
  | n + 1, c => c.current :: s.bytesSent n (s.hostAck c)

theorem State.bytesSent_length (n : Nat) (c : PortState) : (s.bytesSent n c).length = n := by
  induction n generalizing c with
  | zero => rfl
  | succ m ih => exact congrArg (· + 1) (ih _)

/-- The line's record of the bytes sent ends with the one being sent. -/
theorem State.sent_hostAcks (n : Nat) {before : List Byte} (h : c.Streams) (sent : c.line.sent = before ++ [c.current]) :
    (s.hostAcks n c).line.sent = before ++ s.bytesSent n c ++ [(s.hostAcks n c).current] := by
  induction n generalizing c before with
  | zero => simpa [State.hostAcks, State.bytesSent] using sent
  | succ m ih =>
    have one := s.hostAck_sendsOne h
    rw [State.hostAcks, ih (before := before ++ [c.current]) one.streams (by rw [one.sent, sent])]
    simp [State.bytesSent]

/-- The bits of a byte that the part sends while the host releases the line, and the host's acknowledge (R142). -/
theorem State.bitsTaken_sentByte (c : PortState) {l : List (Byte × Bool)}
    (h : (s.linkBits (wireBits l) c).Responds) (rest : List Bool) :
    s.bitsTaken c (wireBits l) (List.replicate 8 true ++ [false] ++ rest)
      = s.bitsTaken c (wireBits (l ++ [((s.linkBits (wireBits l) c).current, false)])) rest := by
  obtain ⟨f, hc⟩ := h
  have data := s.bitsTaken_byte c l (drives := fun k => (s.linkBits (wireBits l) c).current.getLsbD (7 - k))
    (fun k hk => by simp only [PortState.drives, PortState.current, hc, if_neg (Nat.ne_of_lt hk)])
    true true true true true true true true (false :: rest)
  refine data.trans ?_
  rw [wireBits_concat]
  rfl

/-- Byte after byte of a response frame that the host reads. -/
theorem State.bitsTaken_sentBytes (c : PortState) (n : Nat) {l : List (Byte × Bool)}
    (h : (s.linkBits (wireBits l) c).Streams) :
    s.bitsTaken c (wireBits l) (List.replicate n (List.replicate 8 true ++ [false])).flatten
        = wireBits (l ++ (s.bytesSent n (s.linkBits (wireBits l) c)).map fun b => (b, false))
      ∧ s.linkBits (wireBits (l ++ (s.bytesSent n (s.linkBits (wireBits l) c)).map fun b => (b, false))) c
        = s.hostAcks n (s.linkBits (wireBits l) c) := by
  induction n generalizing l with
  | zero => simp [State.bytesSent, State.bitsTaken, State.hostAcks]
  | succ m ih =>
    obtain ⟨f, hc⟩ := h.responds
    have next : s.linkBits (wireBits (l ++ [((s.linkBits (wireBits l) c).current, false)])) c
        = s.hostAck (s.linkBits (wireBits l) c) := by
      rw [State.linkBits_concat]
      simp only [State.linkNinth, hc]
    have more := ih (l := l ++ [((s.linkBits (wireBits l) c).current, false)])
      (by rw [next]; exact (s.hostAck_sendsOne h).streams)
    rw [next, List.append_assoc, List.singleton_append] at more
    rw [List.replicate_succ, List.flatten_cons, s.bitsTaken_sentByte c h.responds, State.bytesSent, List.map_cons,
      State.hostAcks]
    exact more

end

/-- The lead byte of a response frame: the part acknowledges it, and then sends (R144). -/
theorem State.bitsTaken_responseLead (s : State) {c : PortState} {f : RequestFrame} (hc : c.controller = .request f)
    (hl : f.lead = none) {lead : Byte} (opens : (s.leadByte lead c).Responds) (rest : List Bool) :
    s.bitsTaken c [] (bitsOfByte lead ++ rest) = s.bitsTaken c (wireBits [(lead, false)]) rest
      ∧ s.linkBits (wireBits [(lead, false)]) c = s.leadByte lead c := by
  have start : s.linkBits (wireBits []) c = c := rfl
  have byte (level : Option Bool) : s.linkNinth c (lead, level) = s.leadByte lead c := by
    simp only [State.linkNinth, State.linkByte, hc, hl]
  obtain ⟨g, hg⟩ := opens
  have pulls : s.drivesAfter c (wireBits [] ++ dataBits lead) = false := by
    rw [s.drivesAfter_dataBits, start, byte]
    simp [PortState.drives, hg]
  refine ⟨?_, ?_⟩
  · have data := s.bitsTaken_byte c [] (drives := fun _ => true)
      (fun k hk => PortState.drives_of_request (start ▸ hc) _ hk) (lead.getLsbD 7) (lead.getLsbD 6) (lead.getLsbD 5)
      (lead.getLsbD 4) (lead.getLsbD 3) (lead.getLsbD 2) (lead.getLsbD 1) (lead.getLsbD 0) (true :: rest)
    simp only [Bool.and_true] at data
    refine data.trans ?_
    change s.bitsTaken c (wireBits [] ++ dataBits lead) (true :: rest) = _
    rw [State.bitsTaken, pulls]
    rfl
  · have whole := s.linkBits_concat c [] lead false
    rw [List.nil_append, start, byte] at whole
    exact whole

/-- A host that releases the line in a response frame reads the bytes that the part sends (R150 to R153). -/
theorem State.readFrame_response (s : State) {c : PortState} (hc : c.controller = .idle) {lead : Byte}
    (response : lead.toNat = 128 ∨ lead.toNat = 129) (n : Nat) :
    ∃ bits, s.readFrame c (frameLevels (bitsOfByte lead ++ (List.replicate n (List.replicate 8 true ++ [false])).flatten)
        .unended) = some (bits, .unended)
      ∧ completeBytes bits = lead :: ((s.linkBits bits c.linkStart).line.sent.take n) := by
  have opened : c.openFrame = { c with controller := .request .start } := by
    simp only [PortState.openFrame, PortState.linkStart, hc]
  have started : c.linkStart = c.openFrame := by simp only [PortState.openFrame, hc]
  have opens : PortState.SendsOne { c.openFrame with line := ⟨[true], []⟩ } (s.leadByte lead c.openFrame) := by
    rcases response with result | notice
    · obtain rfl : lead = 0x80 := BitVec.eq_of_toNat_eq result
      exact s.openResponse_sendsOne .result c.openFrame
    · obtain rfl : lead = 0x81 := BitVec.eq_of_toNat_eq notice
      exact s.openResponse_sendsOne .notice c.openFrame
  obtain ⟨first, begun⟩ := s.bitsTaken_responseLead (c := c.openFrame) (f := .start) (by rw [opened]) rfl
    opens.streams.responds (List.replicate n (List.replicate 8 true ++ [false])).flatten
  obtain ⟨taken, acked⟩ := s.bitsTaken_sentBytes c.openFrame n (l := [(lead, false)])
    (by rw [begun]; exact opens.streams)
  rw [begun] at taken acked
  obtain ⟨more, short, read⟩ := s.readFrame_of_idle c hc (first.trans taken) (ending := .unended) (.inl rfl)
  refine ⟨_, read, ?_⟩
  rw [completeBytes, ninths_wireBits _ short, started, s.linkBits_within _ _ short, acked,
    s.sent_hostAcks n (before := []) opens.streams opens.sent, List.nil_append,
    List.take_left' (s.bytesSent_length n _)]
  simp [Function.comp_def]

/-! ## Events and drives (R141) -/

theorem linkEvent_eq_start_iff (old new : LinkLevels) :
    linkEvent old new = .start ↔ old = ⟨true, true⟩ ∧ new = ⟨true, false⟩ := by
  obtain ⟨oldClock, oldData⟩ := old
  obtain ⟨newClock, newData⟩ := new
  cases oldClock <;> cases newClock <;> cases oldData <;> cases newData <;> simp [linkEvent]

theorem linkEvent_eq_stop_iff (old new : LinkLevels) :
    linkEvent old new = .stop ↔ old = ⟨true, false⟩ ∧ new = ⟨true, true⟩ := by
  obtain ⟨oldClock, oldData⟩ := old
  obtain ⟨newClock, newData⟩ := new
  cases oldClock <;> cases newClock <;> cases oldData <;> cases newData <;> simp [linkEvent]

theorem linkEvent_eq_bit_iff (old new : LinkLevels) (b : Bool) :
    linkEvent old new = .bit b ↔ old.clock = false ∧ new = ⟨true, b⟩ := by
  obtain ⟨oldClock, oldData⟩ := old
  obtain ⟨newClock, newData⟩ := new
  cases oldClock <;> cases newClock <;> cases oldData <;> cases newData <;> simp [linkEvent]

/-- The part pulls the line low for the acknowledge of a byte that it accepts and for the 0 bits of a byte that it sends. -/
theorem PortState.drives_eq_false_iff (c : PortState) (lead : Bool) {taken : Nat} (ht : taken ≤ 8) :
    c.drives lead taken = false ↔
      (∃ f, c.controller = .request f ∧ taken = 8 ∧ c.line.acks.getLast? = some true)
        ∨ ∃ f, c.controller = .response f
          ∧ (taken = 8 ∧ lead = true ∨ taken < 8 ∧ (f.slot.byteAt f.position).getLsbD (7 - taken) = false) := by
  have last : c.line.acks.getLastD false = true ↔ c.line.acks.getLast? = some true := by
    rw [List.getLastD_eq_getLast?]
    cases c.line.acks.getLast? <;> simp
  unfold PortState.drives
  cases hc : c.controller with
  | idle => simp
  | request f =>
    rcases Nat.lt_or_eq_of_le ht with data | rfl
    · simp [Nat.ne_of_lt data]
    · simpa using last
  | response f =>
    rcases Nat.lt_or_eq_of_le ht with data | rfl
    · simp [Nat.ne_of_lt data, data]
    · simp

/-- Settles O28: events and drives case by case, and the two kinds of frame byte by byte. -/
theorem lineLevelsAreRead : Obligations.LineLevelsAreRead :=
  ⟨fun old new => ⟨linkEvent_eq_start_iff old new, linkEvent_eq_stop_iff old new, linkEvent_eq_bit_iff old new⟩,
    fun c lead _ ht => c.drives_eq_false_iff lead ht,
    fun s _ _ rest ending hc marks => s.readFrame_request hc marks rest ending,
    fun s _ _ n hc response => s.readFrame_response hc response n⟩

end Sys2Proof.Machine
end

section
/-!
SUPPORT. O6: the payload of STATUS, field by field in the terms of Table 43.
-/

namespace Sys2Proof.Machine

/-- The flags byte bit by bit (R173). -/
theorem State.flagsByte_eq_or (s : State) (p : Port) :
    s.flagsByte p = (if s.recovered then 0x01 else 0x00) ||| (if s.hold then 0x02 else 0x00)
      ||| (if (s.port p).service then 0x04 else 0x00) := by
  unfold State.flagsByte
  cases s.recovered <;> cases s.hold <;> cases (s.port p).service <;> rfl

theorem PortState.stagedCount_eq_ite (c : PortState) :
    c.stagedCount = if c.txn = .none then 0 else c.staging.count := by
  unfold PortState.stagedCount
  cases c.txn <;> rfl

/-- A count over the Page Directory is the number of pages whose entry satisfies the predicate. -/
theorem State.count_pages (s : State) (kind : PageEntry → Bool) :
    s.pages.count kind = (allPages.filter fun g => kind (s.page g)).length :=
  (s.pages.count_eq_length_filter kind).symm

theorem State.pageCounts_eq_filters (s : State) :
    s.pageCounts = [PageEntry.isClean, PageEntry.isPending, PageEntry.isLive, PageEntry.isRetained, PageEntry.isStale,
      PageEntry.isBad].map fun kind => (allPages.filter fun g => kind (s.page g)).length := by
  simp only [State.pageCounts, State.cleanCount, State.count_pages, List.map_cons, List.map_nil]

/-- The end of a request's frame changes nothing that STATUS reports. -/
theorem State.statusPayload_endFrame (s : State) (p : Port) (n : Nat) :
    (s.endFrame p n).statusPayload p = s.statusPayload p := by
  simp only [State.statusPayload, State.flagsByte, State.port_endFrame_self]
  rfl

/-- STATUS looks at no gate: in every store state it answers OK with its payload (R169, Table 35). -/
theorem exec_status {s : State} (p : Port) (hr : s.inReset = false) :
    exec (.status p) s = .next (s.answered p 2 (.result .ok (s.statusPayload p))) :=
  calc exec (.status p) s
      = serve p 2 (fun u => (u, .result .ok (u.statusPayload p))) s := rfl
    _ = .next ((s.endFrame p 2).answer p (.result .ok ((s.endFrame p 2).statusPayload p))) := serve_answers hr p 2 _
    _ = .next (s.answered p 2 (.result .ok (s.statusPayload p))) := by
      rw [s.statusPayload_endFrame p 2, State.answered]

/-- Settles O6: the payload that `exec_status` answers, written out by the lemmas on its fields, for a last outcome with
a token and for one without. -/
theorem statusReports : Obligations.StatusReports := by
  intro p s hr
  rw [exec_status p hr]
  cases token : (s.port p).lastOutcome.token <;>
    simp only [State.statusPayload, State.flagsByte_eq_or, PortState.stagedCount_eq_ite, LastOutcome.bytes, token,
      State.pageCounts_eq_filters, List.map_cons, List.map_nil, List.flatMap_cons, List.flatMap_nil, List.append_nil,
      List.append_assoc, List.cons_append, List.nil_append]

end Sys2Proof.Machine
end

section
/-!
SUPPORT. O4: the check register (R175). Stepping a register is stepping it against the top bit of the byte that was
combined into it, with the rest of that byte still to come; and a step loses nothing, since 0x2F is odd.
-/

namespace Sys2Proof.Machine

/-- One step of the register against one bit as it crosses the link: the bit form of R175. -/
def crcBitStep (r : Byte) (bit : Bool) : Byte := if r.msb != bit then (r <<< 1) ^^^ 0x2F else r <<< 1

/-- The first `n` bits of a byte in the order in which they cross the link, most significant bit first. -/
def leadingBits (n : Nat) (b : Byte) : List Bool := (List.range n).map fun k => b.getLsbD (7 - k)

theorem leadingBits_succ (n : Nat) (b : Byte) : leadingBits (n + 1) b = leadingBits n b ++ [b.getLsbD (7 - n)] := by
  simp only [leadingBits, List.range_succ, List.map_append, List.map_cons, List.map_nil]

theorem msb_shiftLeft_byte (b : Byte) {n : Nat} (hn : n < 8) : (b <<< n).msb = b.getLsbD (7 - n) := by
  rw [BitVec.msb_shiftLeft, BitVec.getMsbD_eq_getLsbD, decide_eq_true hn, Bool.true_and]

/-- A byte combined into the register acts in one step by its top bit alone; its other bits move up by one place. -/
theorem crcStep_xor (r b : Byte) : crcStep (r ^^^ b) = crcBitStep r b.msb ^^^ (b <<< 1) := by
  have moved : (r ^^^ b) <<< 1 = (r <<< 1) ^^^ (b <<< 1) := BitVec.shiftLeft_xor_distrib r b 1
  have swapped (x y z : Byte) : x ^^^ y ^^^ z = x ^^^ z ^^^ y := by
    rw [BitVec.xor_assoc, BitVec.xor_comm y, ← BitVec.xor_assoc]
  rw [crcStep, crcBitStep, BitVec.msb_xor, moved, swapped]
  exact (apply_ite (· ^^^ (b <<< 1)) _ _ _).symm

/-- After `n` steps the register has met the first `n` bits of the byte, and the rest of the byte stands at its top. -/
theorem crcStep_iterate_xor (r b : Byte) {n : Nat} (hn : n ≤ 8) :
    crcStep^[n] (r ^^^ b) = (leadingBits n b).foldl crcBitStep r ^^^ (b <<< n) := by
  induction n with
  | zero => rw [BitVec.shiftLeft_zero]; rfl
  | succ n ih =>
    rw [Function.iterate_succ_apply', ih (by omega), crcStep_xor, msb_shiftLeft_byte b (by omega), leadingBits_succ,
      List.foldl_append, ← BitVec.shiftLeft_add]
    rfl

theorem crcByte_eq_iterate (r b : Byte) : crcByte r b = crcStep^[8] (r ^^^ b) := rfl

/-- Eight steps take the byte bit by bit and leave none of it in the register. -/
theorem crcByte_eq_foldl_leadingBits (r b : Byte) : crcByte r b = (leadingBits 8 b).foldl crcBitStep r := by
  rw [crcByte_eq_iterate, crcStep_iterate_xor r b le_rfl, BitVec.shiftLeft_eq_zero le_rfl, BitVec.xor_zero]

theorem checkByte_eq_foldl_leadingBits (covered : List Byte) :
    checkByte covered = (covered.flatMap (leadingBits 8)).foldl crcBitStep 0xFF := by
  rw [checkByte, List.foldl_flatMap, funext₂ crcByte_eq_foldl_leadingBits]

theorem checkByte_append (before after : List Byte) :
    checkByte (before ++ after) = after.foldl crcByte (checkByte before) :=
  List.foldl_append

/-- A register combined with its own value is 0, and 0 steps to 0. -/
theorem crcByte_self (r : Byte) : crcByte r r = 0 := by
  rw [crcByte_eq_iterate, BitVec.xor_self]
  rfl

/-- 0x2F is odd and a shift clears bit 0: bit 0 after a step is the bit that left bit 7. -/
theorem getLsbD_zero_crcStep (r : Byte) : (crcStep r).getLsbD 0 = r.msb := by
  cases top : r.msb <;> simp [crcStep, top]

/-- The step loses no bit: the bit that left bit 7 stands in bit 0, and it says whether 0x2F has to be taken out again. -/
theorem crcStep_injective : Function.Injective crcStep := by
  intro r r' same
  have top : r.msb = r'.msb := by rw [← getLsbD_zero_crcStep, same, getLsbD_zero_crcStep]
  have moved : r <<< 1 = r' <<< 1 := by
    rw [crcStep, crcStep, ← top] at same
    split at same
    · exact (BitVec.xor_left_inj _).mp same
    · exact same
  refine BitVec.eq_of_getElem_eq fun i hi => ?_
  obtain rfl | low : i = 7 ∨ i < 7 := by omega
  · simpa [BitVec.msb_eq_getLsbD_last] using top
  · have bit := congrArg (BitVec.getLsbD · (i + 1)) moved
    simpa [show i + 1 < 8 by omega] using bit

theorem crcByte_left_injective (b : Byte) : Function.Injective (crcByte · b) := fun _ _ same =>
  (BitVec.xor_left_inj _).mp (crcStep_injective.iterate 8 same)

theorem crcByte_right_injective (r : Byte) : Function.Injective (crcByte r) := fun _ _ same =>
  (BitVec.xor_right_inj _).mp (crcStep_injective.iterate 8 same)

/-- Two registers that differ still differ after any further bytes. -/
theorem foldl_crcByte_injective (bytes : List Byte) : Function.Injective (bytes.foldl crcByte ·) := by
  induction bytes with
  | nil => exact Function.injective_id
  | cons b rest ih => exact ih.comp (crcByte_left_injective b)

/-- Settles O4: the bit form from `crcStep_xor`, the closure to 0 from `crcByte_self`, and the change of one byte from the
injectivity of a step. -/
theorem checkByteIsRemainder : Obligations.CheckByteIsRemainder := by
  refine ⟨checkByte_eq_foldl_leadingBits, fun covered => ?_, fun before after a b differ same => differ ?_⟩
  · rw [checkByte_append]
    exact crcByte_self (checkByte covered)
  · rw [checkByte_append, checkByte_append] at same
    exact crcByte_right_injective _ (foldl_crcByte_injective after same)

end Sys2Proof.Machine
end

section
/-! SUPPORT. O2: no operation touches the waiting commands, and every command has a next state (log entries 1 and 10). -/

namespace Sys2Proof.Machine

/-! ## The waiting commands at the operations of the engine -/

section
variable (s : State)

@[simp] theorem State.failAllQueued_pending (r : FailReason) : (s.failAllQueued r).pending = s.pending := by
  obtain ⟨_, _, _, h⟩ := s.failAllQueued_changes r
  rw [h]

@[simp] theorem State.endJob_pending : s.endJob.pending = s.pending := by
  obtain ⟨_, _, _, _, h⟩ := s.endJob_changes
  rw [h]

@[simp] theorem State.commitMediaFailure_pending (p : Port) (token : Token) :
    (s.commitMediaFailure p token).pending = s.pending := by
  obtain ⟨_, _, _, _, _, h⟩ := s.commitMediaFailure_changes p token
  rw [h]

@[simp] theorem State.relocationMediaFailure_pending : s.relocationMediaFailure.pending = s.pending := by
  obtain ⟨_, _, _, _, _, h⟩ := s.relocationMediaFailure_changes
  rw [h]

@[simp] theorem State.commitNext_pending (run : ImageRun) (p : Port) (token : Token) :
    (s.programNext run fun u => u.commitMediaFailure p token).pending = s.pending := by
  obtain ⟨_, _, _, _, _, _, _, _, h⟩ :=
    s.programNext_changes run _ fun u => u.commitMediaFailure_changes p token
  rw [h]

@[simp] theorem State.relocationNext_pending (run : ImageRun) :
    (s.programNext run State.relocationMediaFailure).pending = s.pending := by
  obtain ⟨_, _, _, _, _, _, _, _, h⟩ := s.programNext_changes run _ State.relocationMediaFailure_changes
  rw [h]

@[simp] theorem State.commitPoint_pending (p : Port) (token : Token) (st : Staging) (run : ImageRun) :
    (s.commitPoint p token st run).pending = s.pending := by
  obtain ⟨_, _, _, _, _, _, _, h⟩ := s.commitPoint_changes p token st run
  rw [h]

@[simp] theorem State.relocationPoint_pending (run : ImageRun) : (s.relocationPoint run).pending = s.pending := by
  obtain ⟨_, _, _, _, _, _, h⟩ := s.relocationPoint_changes run
  rw [h]

@[simp] theorem State.issueErase_pending (g : PageNo) : (s.issueErase g).pending = s.pending := by
  rw [State.issueErase_changes]

@[simp] theorem State.takeUp_pending (l : List QueueEntry) : (s.takeUp l).pending = s.pending := by
  obtain ⟨_, _, _, _, _, _, _, _, _, h⟩ := s.takeUp_changes l
  rw [h]

/-! ### The format -/

@[simp] theorem State.formatEnd_pending (noted : List NotedErase) : (s.formatEnd noted).pending = s.pending := by
  obtain ⟨_, _, _, _, h⟩ := s.formatEnd_changes noted
  rw [h]

@[simp] theorem State.sweep_pending (next : Nat) (epochPage : Option PageNo) (noted : List NotedErase) :
    (s.sweep next epochPage noted).pending = s.pending := by
  rcases s.sweep_cases next epochPage noted with ⟨_, _, h⟩ | h
  · rw [h]
  · rw [h, State.formatEnd_pending]

@[simp] theorem State.epochAttempt_pending (q : Sequence) (failures : Nat) (noted : List NotedErase) :
    (s.epochAttempt q failures noted).pending = s.pending := by
  rcases s.epochAttempt_cases q failures noted with ⟨_, _, _, _, h⟩ | h | h
  · rw [h]
  · rw [h, State.sweep_pending]
  · rw [h, State.sweep_pending]

@[simp] theorem State.formatNext_pending (step : FormatStep) (noted : List NotedErase) :
    (s.formatNext step noted).pending = s.pending := by
  cases step with
  | epoch q failures => exact s.epochAttempt_pending q failures noted
  | sweep next epochPage => exact s.sweep_pending next epochPage noted
  | eraseEpoch g => exact State.issueErase_pending _ g

@[simp] theorem State.beginFormat_pending : s.beginFormat.pending = s.pending := by
  unfold State.beginFormat
  split
  · exact s.sweep_pending 0 none []
  · exact State.epochAttempt_pending _ _ 0 []

@[simp] theorem State.settleErase_pending (g : PageNo) (v : EraseVerdict) :
    (s.settleErase g v).pending = s.pending := by cases v <;> rfl

/-! ### The verdicts, the resumption and the mount -/

/-- A passed program goes on to a commit point, a completed relocation, a next program or the second step of a format. -/
theorem State.afterPass_pending (g : PageNo) : (s.afterPass g).pending = s.pending := by
  unfold State.afterPass
  split
  · unfold State.commitPassed
    split <;> simp
  · unfold State.relocationPassed
    split <;> simp
  · exact s.sweep_pending _ _ _
  all_goals rfl

/-- A failed program goes on to a retry, a MEDIA failure or the next attempt at an epoch page. -/
theorem State.afterFail_pending : s.afterFail.pending = s.pending := by
  unfold State.afterFail
  split
  · unfold State.commitFailed
    split <;> simp
  · unfold State.relocationFailed
    split <;> simp
  · exact s.epochAttempt_pending _ _ _
  all_goals rfl

theorem State.sweepVerdict_pending (g : PageNo) (v : EraseVerdict) (epochPage : Option PageNo)
    (noted : List NotedErase) : (s.sweepVerdict g v epochPage noted).pending = s.pending := by
  unfold State.sweepVerdict
  split <;> simp

/-- An erase settles its page, and its job ends or the format goes on. -/
theorem State.afterErase_pending (g : PageNo) (v : EraseVerdict) : (s.afterErase g v).pending = s.pending := by
  unfold State.afterErase
  split
  · simp
  · simp
  · exact s.sweepVerdict_pending g v _ _
  · simp
  all_goals rfl

theorem State.resume_pending : s.resume.pending = s.pending := by
  unfold State.resume
  split
  · rfl
  · split <;> simp

theorem State.endMount_pending : (s.endMount s.verdicts).pending = s.pending := by
  obtain ⟨_, _, _, ends⟩ := s.endMount_ends
  obtain ⟨_, _, _, _, _, _, _, _, tables⟩ := s.remounted_changes
  rw [ends, tables]
  rfl

end

/-! ## The waiting commands at the acts of a port -/

theorem State.Acts.pending {s t : State} {p : Port} (h : s.Acts p t) : t.pending = s.pending := by
  cases h with
  | ports _ => rfl
  | leases _ => rfl
  | opens _ => rfl
  | stages _ _ => rfl
  | submits _ _ _ => rfl
  | discards _ _ _ _ => rfl
  | @fails e tell _ =>
    obtain ⟨_, _, failed⟩ := s.failQueued_changes e .aborted none tell
    rw [failed]
  | formats => exact State.failAllQueued_pending _ .aborted

theorem State.Runs.pending {s t : State} {p : Port} (h : s.Runs p t) : t.pending = s.pending := by
  induction h with
  | refl => rfl
  | tail _ act ih => exact act.pending.trans ih

/-! ## The commands -/

/-- A command leaves the commands that wait behind it: those of the ports and the timebase are acts, and the rest are
operations of the engine, resets and pins. -/
theorem exec_pending {c : Instr} {s t : State} (h : exec c s = .next t) : t.pending = s.pending := by
  rcases leavesEngine_or c with (port | rfl | ⟨w, rfl⟩ | rfl | rfl) | ⟨x, y, z, rfl⟩ | ⟨cut, rfl⟩ | rfl | rfl | ⟨b, rfl⟩
    | ⟨v, rfl⟩ | ⟨v, rfl⟩ | ⟨b, rfl⟩
  · obtain ⟨p, hp⟩ := Option.isSome_iff_exists.mp port
    exact State.Runs.pending (exec_runs hp h)
  · exact State.Runs.pending (exec_leaseTick_runs 0 h)
  · exact State.Runs.pending (exec_leaseExpiry_runs 0 h)
  · obtain rfl := Host.Outcome.next.inj h
    rfl
  · simp only [exec, execHoldTakesEffect] at h
    split at h <;> obtain rfl := Host.Outcome.next.inj h <;> rfl
  · simp only [exec, execResetRelease] at h
    split at h <;> obtain rfl := Host.Outcome.next.inj h <;> rfl
  · obtain rfl := Host.Outcome.next.inj ((exec_deviceReset_eq cut s).symm.trans h)
    rfl
  · rcases exec_mountEnd h with rfl | ⟨-, -, rfl⟩
    · rfl
    · exact s.endMount_pending
  · obtain rfl := exec_pfwDeassert h
    exact State.resume_pending _
  · rcases exec_jobChoice h with rfl | ⟨-, -, -, rfl⟩
    · rfl
    · exact State.takeUp_pending _ s.queue
  · rcases exec_pageProgramVerdict h with rfl | ⟨g, i, -, ⟨-, rfl⟩ | ⟨mark, -, rfl⟩⟩
    · rfl
    · exact State.afterPass_pending _ g
    · exact State.afterFail_pending _
  · rcases exec_pageEraseVerdict h with rfl | ⟨g, -, rfl⟩
    · rfl
    · exact State.afterErase_pending _ g v
  · rcases exec_formatJobBegin h with rfl | ⟨-, -, -, rfl⟩
    · rfl
    · exact State.beginFormat_pending _

/-- A request is served or passes unheeded in device reset: either way the part goes on (R82, R149). -/
theorem serve_next (p : Port) (n : Nat) (body : State → State × ResultHolder) (s : State) :
    ∃ t, serve p n body s = .next t := by
  cases h : s.inReset with
  | true => exact ⟨s, serve_in_reset s p n body h⟩
  | false => exact ⟨_, serve_eq s p n body h⟩

/-- A command that goes on with one state where it can occur and with another where it cannot (log entry 10). -/
theorem next_of_ite (may : Prop) [Decidable may] (t u : State) :
    ∃ v, (if may then .next t else .next u : Host.Outcome State Fault Refusal) = .next v := by
  split
  · exact ⟨t, rfl⟩
  · exact ⟨u, rfl⟩

theorem pageProgramVerdict_next (v : ProgramVerdict) (s : State) : ∃ t, exec (.pageProgramVerdict v) s = .next t := by
  by_cases busy : ∃ g i, s.op = some (.program g i)
  · obtain ⟨g, i, ho⟩ := busy
    cases v with
    | pass => exact ⟨_, exec_pass ho⟩
    | fail mark => exact ⟨_, exec_fail ho mark⟩
  · exact ⟨s, exec_programVerdict_of_none (fun g i ho => busy ⟨g, i, ho⟩) v⟩

theorem pageEraseVerdict_next (v : EraseVerdict) (s : State) : ∃ t, exec (.pageEraseVerdict v) s = .next t := by
  by_cases busy : ∃ g, s.op = some (.erase g)
  · obtain ⟨g, ho⟩ := busy
    exact ⟨_, exec_eraseVerdict ho v⟩
  · exact ⟨s, exec_eraseVerdict_of_none (fun g ho => busy ⟨g, ho⟩) v⟩

/-- The part stops at no command: requests are served, link events and pins are taken, and what cannot occur in a state
leaves it. -/
theorem exec_next (c : Instr) (s : State) : ∃ t, exec c s = .next t := by
  cases c with
  | status p => exact serve_next p 2 (fun u => (u, .result .ok (u.statusPayload p))) s
  | read | scan | windows | beginTxn | stageWrite | stageDelete | dropEntry | commit | abort | lease | renew | release
  | breakLease | watch | unwatch | defineWindow | clearWindow | format | portReset => exact serve_next _ _ _ s
  | badFrame | truncated | frameTimeout | badLeadByte | resultFrame | scanBlockDelivered | noticeFrame
  | noticeEntryDelivered => exact ⟨_, rfl⟩
  | deviceReset | pfwAssert | pfwDeassert => exact ⟨_, rfl⟩
  | resetRelease | mountEnd | holdTakesEffect | leaseTick | leaseExpiry | jobChoice | formatJobBegin =>
    exact next_of_ite _ _ _
  | pageProgramVerdict v => exact pageProgramVerdict_next v s
  | pageEraseVerdict v => exact pageEraseVerdict_next v s

/-! ## The two obligations -/

/-- Settles O2: `exec_next` gives the state, and `exec_pending` says which commands wait in it. -/
theorem everyCommandAnswers : Obligations.EveryCommandAnswers := by
  intro c s
  obtain ⟨t, h⟩ := exec_next c s
  exact ⟨t, h, exec_pending h⟩

theorem step_of_cons {c : Instr} {rest : List Instr} {s : State} (h : s.pending = c :: rest) :
    step s = exec c { s with pending := rest } := by
  rw [step, h]

theorem step_of_nil {s : State} (h : s.pending = []) : step s = .next s := by
  rw [step, h]

/-- Settles O1, by the two cases of the queue. -/
theorem stepTakesFrontCommand : Obligations.StepTakesFrontCommand :=
  ⟨fun _ _ _ => step_of_cons rfl, fun _ => step_of_nil rfl⟩

end Sys2Proof.Machine
end

section
/-!
SUPPORT. O56: the operations of ports, timebase and engine that give no window a holder, and those of the format, which come
in a store without holders (R104, R115).
-/

namespace Sys2Proof.Machine

/-! ## Holders that stay or go -/

/-- From `s` to `t` no window gains a holder, the Window Table stands, and the store state stands or is READ_ONLY. -/
structure State.GrantsNone (s t : State) : Prop where
  windows : t.windows = s.windows
  held : ∀ w, (t.lease w).held.isSome = true → (s.lease w).held.isSome = true
  store : t.store = s.store ∨ ∃ r, t.store = .readOnly r

theorem State.GrantsNone.of_same {s t : State} (windows : t.windows = s.windows) (leases : t.leases = s.leases)
    (store : t.store = s.store) : s.GrantsNone t := by
  refine ⟨windows, fun w => ?_, .inl store⟩
  rw [State.lease, State.lease, leases]
  exact id

theorem State.GrantsNone.refl (s : State) : s.GrantsNone s := .of_same rfl rfl rfl

theorem State.GrantsNone.trans {s t u : State} (h : s.GrantsNone t) (k : t.GrantsNone u) : s.GrantsNone u where
  windows := k.windows.trans h.windows
  held w := h.held w ∘ k.held w
  store := k.store.elim (fun same => same ▸ h.store) .inr

/-- The same behind a change of neither. -/
theorem State.GrantsNone.after {s t u : State} (h : t.GrantsNone u) (windows : t.windows = s.windows)
    (leases : t.leases = s.leases) (store : t.store = s.store) : s.GrantsNone u :=
  (State.GrantsNone.of_same windows leases store).trans h

theorem State.GrantsNone.foldl {α : Type} {f : State → α → State} (h : ∀ (u : State) a, u.GrantsNone (f u a)) (l : List α)
    (s : State) : s.GrantsNone (l.foldl f s) := by
  induction l generalizing s with
  | nil => exact .refl s
  | cons a rest ih => exact (h s a).trans (ih (f s a))

/-- Where no window is held the policy of none matters. -/
theorem State.LeasesFollowPolicy.of_none {s : State} (free : ∀ w, (s.lease w).held = none) : s.LeasesFollowPolicy :=
  ⟨fun w held => absurd held (by rw [free w]; exact Bool.false_ne_true), fun _ => free⟩

theorem State.LeasesFollowPolicy.of_grantsNone {s t : State} (h : s.LeasesFollowPolicy) (k : s.GrantsNone t) :
    t.LeasesFollowPolicy := by
  obtain ⟨leased, unserved⟩ := h
  refine ⟨fun w held => k.windows ▸ leased w (k.held w held), fun closed w => ?_⟩
  rcases k.store with same | ⟨r, readOnly⟩
  · have free := unserved (same ▸ closed) w
    by_contra held
    have := k.held w (Option.isSome_iff_ne_none.mpr held)
    rw [free] at this
    exact Bool.false_ne_true this
  · rw [readOnly] at closed
    exact absurd closed (by simp)

/-! ## The shared operations -/

section
variable (s : State)

theorem State.onPort_grantsNone (p : Port) (f : PortState → PortState) : s.GrantsNone (s.onPort p f) :=
  .of_same rfl rfl rfl

theorem State.notify_grantsNone (p : Port) (b : NoticeBody) : s.GrantsNone (s.notify p b) := .of_same rfl rfl rfl

theorem State.setLease_grantsNone {w : WindowNo} {l : LeaseState}
    (h : l.held.isSome = true → (s.lease w).held.isSome = true) : s.GrantsNone (s.setLease w l) := by
  refine ⟨rfl, fun v => ?_, .inl rfl⟩
  rw [State.lease_setLease]
  split
  · next same => exact same ▸ h
  · exact id

theorem State.loadTimer_grantsNone (w : WindowNo) : s.GrantsNone (s.loadTimer w) := by
  unfold State.loadTimer
  split
  · next held => exact s.setLease_grantsNone fun _ => by rw [held]; rfl
  · exact .refl s

theorem State.sendAll_grantsNone (l : List (Port × NoticeBody)) : s.GrantsNone (s.sendAll l) := by
  obtain ⟨_, sent⟩ := s.sendAll_changes l
  rw [sent]
  exact .of_same rfl rfl rfl

/-- A lease that passes on was held before (R106). -/
theorem State.passOn_grantsNone {w : WindowNo} (held : (s.lease w).held.isSome = true) : s.GrantsNone (s.passOn w) := by
  rw [State.passOn_eq]
  exact (s.setLease_grantsNone fun _ => held).trans (State.sendAll_grantsNone _ _)

theorem State.tickWindow_grantsNone (w : WindowNo) : s.GrantsNone (s.tickWindow w) := by
  unfold State.tickWindow
  split
  · next h held =>
    have isHeld : (s.lease w).held.isSome = true := by rw [held]; rfl
    split
    · exact .refl s
    · split
      · unfold State.expire
        rw [held]
        exact (s.notify_grantsNone _ _).trans (State.passOn_grantsNone _ isHeld)
      · exact s.setLease_grantsNone fun _ => isHeld
  · exact .refl s

theorem State.tick_grantsNone : s.GrantsNone s.tick := .foldl (fun u w => u.tickWindow_grantsNone w) allWindows s

theorem State.holds_isSome {s : State} {p : Port} {w : WindowNo} (h : s.holds p w = true) :
    (s.lease w).held.isSome = true := by
  unfold State.holds at h
  split at h
  · next held => rw [held]; rfl
  · cases h

theorem State.passOnAll_grantsNone (p : Port) : s.GrantsNone (s.passOnAll p) := by
  refine .foldl (fun u w => ?_) allWindows s
  split
  · next held => exact u.passOn_grantsNone (State.holds_isSome held)
  · exact .refl u

theorem State.leaveWaitLists_grantsNone (p : Port) : s.GrantsNone (s.leaveWaitLists p) := by
  refine ⟨rfl, fun w => ?_, .inl rfl⟩
  rw [State.lease_leaveWaitLists]
  exact id

theorem State.freeze_grantsNone (p : Port) (st : Staging) : s.GrantsNone (s.freeze p st) := by
  refine ⟨rfl, fun w => ?_, .inl rfl⟩
  rw [State.lease_freeze]
  split
  · next held => exact fun _ => by rw [held]; rfl
  · exact id

theorem State.endFreeze_grantsNone (p : Port) : s.GrantsNone (s.endFreeze p) := by
  refine ⟨rfl, fun w => ?_, .inl rfl⟩
  rw [State.lease_endFreeze]
  split
  · next held => exact fun _ => by rw [held]; rfl
  · exact id

theorem State.failQueued_grantsNone (e : QueueEntry) (r : FailReason) (record : Option HostRecord) (tell : Bool) :
    s.GrantsNone (s.failQueued e r record tell) := by
  unfold State.failQueued
  cases tell <;> exact (State.endFreeze_grantsNone _ e.port).after rfl rfl rfl

theorem State.failAllQueued_grantsNone (r : FailReason) : s.GrantsNone (s.failAllQueued r) :=
  .foldl (fun u e => u.failQueued_grantsNone e r none true) s.queue s

theorem State.enterReadOnly_grantsNone (r : ReadOnlyReason) : s.GrantsNone (s.enterReadOnly r) := by
  have told : s.GrantsNone (({ s with store := .readOnly r } : State).notifyAll (.storeState (.readOnly r))) :=
    ⟨rfl, fun _ => id, .inr ⟨r, rfl⟩⟩
  exact told.trans (State.failAllQueued_grantsNone _ .readOnly)

/-! ## The requests -/

theorem readBody_grantsNone (record : Byte) : s.GrantsNone (readBody record s).1 := by
  unfold readBody
  split
  · exact .refl s
  · split <;> exact .refl s

theorem scanBody_grantsNone (start scope direction : Byte) : s.GrantsNone (scanBody start scope direction s).1 := by
  unfold scanBody
  split
  · split <;> exact .refl s
  · exact .refl s

theorem windowsBody_grantsNone : s.GrantsNone (windowsBody s).1 := by
  unfold windowsBody
  split <;> exact .refl s

theorem beginBody_grantsNone (p : Port) : s.GrantsNone (beginBody p s).1 := by
  unfold beginBody
  split
  · exact .refl s
  · split
    · exact .of_same rfl rfl rfl
    · exact .refl s

theorem State.stageReload_grantsNone (r : HostRecord) : s.GrantsNone (s.stageReload r) := by
  unfold State.stageReload
  split
  · exact s.loadTimer_grantsNone _
  · exact .refl s

theorem stageBody_grantsNone (p : Port) (e : StagedEntry) : s.GrantsNone (stageBody p e s).1 := by
  unfold stageBody
  split
  · exact .refl s
  · split
    · split
      · exact .refl s
      · simp only
        split
        · exact .refl s
        · exact (s.stageReload_grantsNone e.record).trans (.of_same rfl rfl rfl)
    · exact .refl s

theorem stageWriteBody_grantsNone (p : Port) (record presence : Byte) (expected : Version) (data : List Byte) :
    s.GrantsNone (stageWriteBody p record presence expected data s).1 := by
  unfold stageWriteBody
  split
  · split
    · exact stageBody_grantsNone s p _
    · exact .refl s
  · exact .refl s

theorem stageDeleteBody_grantsNone (p : Port) (record presence : Byte) (expected : Version) :
    s.GrantsNone (stageDeleteBody p record presence expected s).1 := by
  unfold stageDeleteBody
  split
  · exact stageBody_grantsNone s p _
  · exact .refl s

theorem dropBody_grantsNone (p : Port) (record : Byte) : s.GrantsNone (dropBody p record s).1 := by
  unfold dropBody
  split
  · exact .refl s
  · split
    · exact .refl s
    · split
      · simp only
        split
        · exact .of_same rfl rfl rfl
        · exact .refl s
      · exact .refl s

theorem State.submit_grantsNone (p : Port) (st : Staging) : s.GrantsNone (s.submit p st).1 := .of_same rfl rfl rfl

theorem commitBody_grantsNone (p : Port) : s.GrantsNone (commitBody p s).1 := by
  unfold commitBody
  split
  · exact .refl s
  · split
    · split
      · exact .refl s
      · exact (s.submit_grantsNone p _).trans (State.freeze_grantsNone _ p _)
    · exact .refl s

theorem abortBody_grantsNone (p : Port) : s.GrantsNone (abortBody p s).1 := by
  unfold abortBody
  split
  · exact .refl s
  · split
    · exact .refl s
    · exact s.onPort_grantsNone p _
    · split
      · exact s.failQueued_grantsNone _ _ _ _
      · exact .refl s
    · exact .refl s

theorem leaseRequest_grantsNone (window : Byte) (body : WindowNo → State → State × ResultHolder)
    (h : ∀ w, s.GrantsNone (body w s).1) : s.GrantsNone (leaseRequest window body s).1 := by
  unfold leaseRequest
  split
  · exact .refl s
  · split
    · exact .refl s
    · exact h _

theorem renewBody_grantsNone (p : Port) (window : Byte) : s.GrantsNone (renewBody p window s).1 := by
  refine leaseRequest_grantsNone s window _ fun w => ?_
  split
  · exact .refl s
  · split
    · split
      · simp only
        split
        · exact .refl s
        · exact s.loadTimer_grantsNone w
      · exact .refl s
    · exact .refl s

theorem releaseBody_grantsNone (p : Port) (window : Byte) : s.GrantsNone (releaseBody p window s).1 := by
  refine leaseRequest_grantsNone s window _ fun w => ?_
  split
  · exact .refl s
  · split
    · next held =>
      split
      · exact .refl s
      · exact s.passOn_grantsNone (State.holds_isSome held)
    · split
      · exact s.setLease_grantsNone id
      · exact .refl s

theorem breakBody_grantsNone (p : Port) (window : Byte) : s.GrantsNone (breakBody p window s).1 := by
  refine leaseRequest_grantsNone s window _ fun w => ?_
  split
  · exact .refl s
  · split
    · exact .refl s
    · split
      · exact .refl s
      · next h held =>
        have isHeld : (s.lease w).held.isSome = true := by rw [held]; rfl
        split
        · exact .refl s
        · exact (s.notify_grantsNone _ _).trans (State.passOn_grantsNone _ isHeld)

theorem watchBody_grantsNone (p : Port) (area : Byte) : s.GrantsNone (watchBody p area s).1 := by
  unfold watchBody
  split
  · exact .refl s
  · split
    · exact .refl s
    · split
      · exact .refl s
      · exact .of_same rfl rfl rfl

theorem unwatchBody_grantsNone (p : Port) (area : Byte) : s.GrantsNone (unwatchBody p area s).1 := by
  unfold unwatchBody
  split
  · exact .refl s
  · split
    · exact .refl s
    · split
      · exact .refl s
      · split
        · exact .of_same rfl rfl rfl
        · exact .refl s

theorem defineBody_grantsNone (p : Port) (window base size policy leaseTime : Byte) :
    s.GrantsNone (defineBody p window base size policy leaseTime s).1 := by
  unfold defineBody
  split
  · split
    · exact .refl s
    · split
      · exact .refl s
      · split
        · exact .refl s
        · exact s.submit_grantsNone p _
  · exact .refl s

theorem clearBody_grantsNone (p : Port) (window : Byte) : s.GrantsNone (clearBody p window s).1 := by
  unfold clearBody
  split
  · exact .refl s
  · split
    · exact .refl s
    · split
      · exact .refl s
      · split
        · exact .refl s
        · exact s.submit_grantsNone p _

theorem State.resetTransaction_grantsNone (p : Port) : s.GrantsNone (s.resetTransaction p) := by
  unfold State.resetTransaction
  split
  · exact s.onPort_grantsNone p _
  · exact s.onPort_grantsNone p _
  · split
    · exact s.failQueued_grantsNone _ _ _ _
    · exact .refl s
  · exact .refl s

theorem portResetBody_grantsNone (p : Port) : s.GrantsNone (portResetBody p s).1 := by
  rw [portResetBody_eq]
  exact (((s.resetTransaction_grantsNone p).trans (State.leaveWaitLists_grantsNone _ p)).trans
    (State.passOnAll_grantsNone _ p)).trans (State.onPort_grantsNone _ p _)

/-! ## The engine, but for layout commits and the format -/

theorem State.endJob_grantsNone : s.GrantsNone s.endJob := by
  have free : s.GrantsNone { s with job := .idle, op := none } := .of_same rfl rfl rfl
  unfold State.endJob
  simp only
  split
  · exact free.trans (State.enterReadOnly_grantsNone _ .media)
  · exact free

theorem State.commitMediaFailure_grantsNone (p : Port) (token : Token) :
    s.GrantsNone (s.commitMediaFailure p token) := by
  have failed : s.GrantsNone ((s.dropPending.onPort p (PortState.failCommit token .media)).notify p
      (.commitFailed token .media none)) := .of_same rfl rfl rfl
  exact (failed.trans (State.endFreeze_grantsNone _ p)).trans (State.endJob_grantsNone _)

theorem State.relocationMediaFailure_grantsNone : s.GrantsNone s.relocationMediaFailure :=
  s.dropPending.endJob_grantsNone.after rfl rfl rfl

theorem State.programNext_grantsNone (run : ImageRun) {fail : State → State} (hf : ∀ u : State, u.GrantsNone (fail u)) :
    s.GrantsNone (s.programNext run fail) := by
  rcases s.programNext_cases run fail with h | ⟨-, -, h⟩ | ⟨i, g, -, -, -, h⟩ <;> rw [h]
  · exact .of_same rfl rfl rfl
  · exact (hf _).after rfl rfl rfl
  · exact .of_same rfl rfl rfl

theorem State.commitNext_grantsNone (run : ImageRun) (p : Port) (token : Token) :
    s.GrantsNone (s.programNext run fun u => u.commitMediaFailure p token) :=
  s.programNext_grantsNone run fun u => u.commitMediaFailure_grantsNone p token

theorem State.relocationNext_grantsNone (run : ImageRun) :
    s.GrantsNone (s.programNext run State.relocationMediaFailure) :=
  s.programNext_grantsNone run State.relocationMediaFailure_grantsNone

theorem State.startCommit_grantsNone (e : QueueEntry) : s.GrantsNone (s.startCommit e) := by
  rw [State.startCommit_eq]
  split
  · exact s.enterReadOnly_grantsNone .sequence
  · exact State.GrantsNone.after (t := s.commitBegun e) (State.commitNext_grantsNone _ _ _ _) rfl rfl rfl

theorem State.startRelocation_grantsNone (e : CensusEntry) : s.GrantsNone (s.startRelocation e) := by
  rw [State.startRelocation_eq]
  split
  · exact s.enterReadOnly_grantsNone .sequence
  · exact State.GrantsNone.after (t := s.relocationBegun e) (State.relocationNext_grantsNone _ _) rfl rfl rfl

theorem State.Reclaims.grantsNone {s t : State} (h : s.Reclaims t) : s.GrantsNone t := by
  cases h with
  | erase _ =>
    rw [State.startErase_changes]
    exact .of_same rfl rfl rfl
  | relocate _ => exact s.startRelocation_grantsNone _
  | nothing => exact .of_same rfl rfl rfl
  | space => exact s.enterReadOnly_grantsNone _

theorem State.TakesUp.grantsNone {s t : State} {l : List QueueEntry} (h : State.TakesUp s l t) : s.GrantsNone t := by
  induction h with
  | reclaims h => exact h.grantsNone
  | starts _ => exact State.startCommit_grantsNone _ _
  | fails r record _ ih => exact (State.failQueued_grantsNone _ _ r record true).trans ih

theorem State.completed_grantsNone (run : ImageRun) (pages : List PageNo) : s.GrantsNone (s.completed run pages) := by
  obtain ⟨_, _, _, h⟩ := s.takeEffectAll_changes run.images pages
  unfold State.completed
  rw [h]
  exact .of_same rfl rfl rfl

theorem State.relocationPoint_grantsNone (run : ImageRun) : s.GrantsNone (s.relocationPoint run) :=
  (s.completed_grantsNone run run.verified).trans (State.endJob_grantsNone _)

end

/-! ## Leases through a format (R165 to R168) -/

section
variable {s t : State}

theorem State.leases_inFormat (s : State) (step : FormatStep) (noted : List NotedErase) (g : PageNo) :
    ((s.inFormat step noted).issueErase g).leases = s.leases := by
  rw [State.issueErase_changes]
  rfl

theorem State.leases_formatEnd (s : State) (noted : List NotedErase) : (s.formatEnd noted).leases = s.leases := by
  obtain ⟨_, _, _, _, ended⟩ := s.formatEnd_changes noted
  rw [ended]

theorem State.Sweeps.leases {next : Nat} {epochPage : Option PageNo} {noted : List NotedErase}
    (h : s.Sweeps next epochPage noted t) : t.leases = s.leases := by
  cases h with
  | erase _ => exact s.leases_inFormat _ noted _
  | eraseEpoch _ _ => exact s.leases_inFormat _ noted _
  | ends _ _ => exact s.leases_formatEnd noted

theorem State.AttemptsEpoch.leases {q : Sequence} {failures : Nat} {noted : List NotedErase}
    (h : s.AttemptsEpoch q failures noted t) : t.leases = s.leases := by
  cases h with
  | givesUp h => exact h.leases
  | waits => rfl
  | programs _ => rfl
  | erases _ => rfl
  | noPage h => exact h.leases

theorem State.leases_formatNext (s : State) (step : FormatStep) (noted : List NotedErase) :
    (s.formatNext step noted).leases = s.leases := by
  cases step with
  | epoch q failures => exact (s.epochAttempt_attempts q failures noted).leases
  | sweep next epochPage => exact (s.sweep_sweeps next epochPage noted).leases
  | eraseEpoch g => exact s.leases_inFormat (.eraseEpoch g) noted g

theorem State.leases_beginFormat (s : State) : s.beginFormat.leases = s.leases := by
  unfold State.beginFormat
  split
  · exact (s.sweep_sweeps 0 none []).leases
  · exact (State.epochAttempt_attempts _ _ 0 []).leases

theorem State.leases_settleErase (s : State) (g : PageNo) (v : EraseVerdict) :
    (s.settleErase g v).leases = s.leases := by cases v <;> rfl

theorem State.leases_sweepVerdict (s : State) (g : PageNo) (v : EraseVerdict) (epochPage : Option PageNo)
    (noted : List NotedErase) : (s.sweepVerdict g v epochPage noted).leases = s.leases := by
  unfold State.sweepVerdict
  split
  · exact (s.sweep_sweeps _ _ _).leases
  · exact (State.sweep_sweeps _ _ _ _).leases.trans (s.leases_settleErase g v)

/-- A mount rebuilds no lease state (R92). -/
theorem State.leases_endMount (s : State) : (s.endMount s.verdicts).leases = s.leases := by
  obtain ⟨_, _, _, ends⟩ := s.endMount_ends
  obtain ⟨_, _, _, _, _, _, _, _, tables⟩ := s.remounted_changes
  rw [ends, tables]
  rfl

/-- A store that serves no lease keeps none while its leases stand, whatever becomes of it (R115). -/
theorem State.LeasesFollowPolicy.of_unserved (h : s.LeasesFollowPolicy)
    (closed : s.store = .mounting ∨ s.store = .formatting) (leases : t.leases = s.leases) : t.LeasesFollowPolicy :=
  .of_none fun w => by
    rw [State.lease, leases]
    exact h.2 closed w

end

end Sys2Proof.Machine
end

section
/-! SUPPORT. O56: the grant of a lease, the commit point of a layout commit, and the commands. -/

namespace Sys2Proof.Machine

variable {s t : State}

/-- LEASE gives a holder to a LEASED window alone, in a store that serves the request (R104, R107). -/
theorem State.LeasesFollowPolicy.leaseBody (h : s.LeasesFollowPolicy) (p : Port) (window wait : Byte) :
    (leaseBody p window wait s).1.LeasesFollowPolicy := by
  unfold Sys2Proof.Machine.leaseBody
  split
  · exact h
  · unfold leaseRequest
    split
    · exact h
    · next w _ =>
      split
      · exact h
      · next gate =>
        have serves : ¬(s.store = .mounting ∨ s.store = .formatting) := by
          rintro (closed | closed) <;> rw [closed] at gate <;> cases gate
        simp only
        split
        · exact h
        · next d window =>
          split
          · next ticks policy =>
            have granted (l : LeaseState) : (s.setLease w l).LeasesFollowPolicy := by
              refine ⟨fun v held => ?_, fun closed => absurd closed serves⟩
              by_cases same : v = w
              · exact ⟨ticks, by rw [State.setLease_windows, same, window, Option.map_some, policy]⟩
              · rw [State.lease_setLease, if_neg same] at held
                exact h.1 v held
            unfold grantBody
            simp only
            split
            · exact granted _
            · split
              · simp only
                split
                · exact h
                · exact h.of_grantsNone (s.loadTimer_grantsNone w)
              · split
                · exact granted _
                · exact h
          · exact h
          · exact h

theorem State.LeasesFollowPolicy.formatBody (h : s.LeasesFollowPolicy) (p : Port) :
    (formatBody p s).1.LeasesFollowPolicy := by
  unfold Sys2Proof.Machine.formatBody
  split
  · exact h
  · split
    · exact h
    · refine .of_none fun w => ?_
      rw [s.lease_acceptFormat]
      rfl

/-! ## Commit points -/

theorem State.sendChanged_grantsNone (s : State) (st : Staging) (p : Port) (q : Sequence) :
    s.GrantsNone (s.sendChanged st p q) := by
  obtain ⟨_, sent⟩ := s.sendChanged_changes st p q
  rw [sent]
  exact .of_same rfl rfl rfl

/-- A window that a layout commit names keeps its holder only if the new list makes it LEASED (R122). -/
theorem LeaseState.leased_of_settledBy {l : LeaseState} {d : Option WindowDef}
    (h : (l.settledBy (leaseStays d)).held.isSome = true) : ∃ ticks, d.map WindowDef.policy = some (.leased ticks) := by
  cases d with
  | none =>
    cases held : l.held <;> simp [LeaseState.settledBy, leaseStays, held] at h
  | some d =>
    cases policy : d.policy with
    | leased ticks => exact ⟨ticks, by rw [Option.map_some, policy]⟩
    | openWrite => cases held : l.held <;> simp [LeaseState.settledBy, leaseStays, policy, held] at h
    | frozen => cases held : l.held <;> simp [LeaseState.settledBy, leaseStays, policy, held] at h

theorem LeaseState.held_of_settledBy {l : LeaseState} {stays : Bool} (h : l.held = none) :
    (l.settledBy stays).held = none := by
  cases stays <;> simp [LeaseState.settledBy, h]

/-- A layout commit changes the row of one window, and settles that window's lease against it (R121, R122). -/
theorem State.LeasesFollowPolicy.announce_of_layout (h : s.LeasesFollowPolicy) (p : Port) {st : Staging} {run : ImageRun}
    {i : PageImage} {w : WindowNo} {reason : LayoutReason} {d : Option WindowDef}
    (hst : st.layoutEntry = some (w, reason)) (hi : run.images = [i]) (hp : i.payload = .layout (s.windows.set w d)) :
    (s.announce p st run).LeasesFollowPolicy := by
  obtain ⟨ports, announced, -⟩ := s.announce_of_layout p hst hi hp
  rw [Table.get_set_self] at announced
  have lease (v : WindowNo) : (s.announce p st run).lease v
      = if v = w then (s.lease w).settledBy (leaseStays d) else s.lease v := by
    rw [announced, ← s.lease_setLease]
    rfl
  have windows : (s.announce p st run).windows = s.windows.set w d := by rw [announced]
  have store : (s.announce p st run).store = s.store := by rw [announced]; rfl
  refine ⟨fun v held => ?_, fun closed v => ?_⟩
  · rw [lease] at held
    rw [windows, Table.get_set]
    split at held
    · next same =>
      rw [if_pos same]
      exact LeaseState.leased_of_settledBy held
    · next other =>
      rw [if_neg other]
      exact h.1 v held
  · have free := h.2 (store ▸ closed)
    rw [lease]
    split
    · exact LeaseState.held_of_settledBy (free w)
    · exact free v

theorem State.LeasesFollowPolicy.commitPoint {p : Port} {token : Token} {st : Staging} {run : ImageRun}
    (h : s.LeasesFollowPolicy) (fits : (Job.commit p token st run).LayoutConsistent s.windows) :
    (s.commitPoint p token st run).LeasesFollowPolicy := by
  have told : s.GrantsNone ((s.completed run run.verified).commitTold p token st run.sequence) :=
    (s.completed_grantsNone run run.verified).trans (.of_same rfl rfl rfl)
  have kept := h.of_grantsNone told
  have ends {u : State} (hu : u.LeasesFollowPolicy) : (u.endFreeze p).endJob.LeasesFollowPolicy :=
    hu.of_grantsNone ((u.endFreeze_grantsNone p).trans (State.endJob_grantsNone _))
  refine ends (u := ((s.completed run run.verified).commitTold p token st run.sequence).announce p st run) ?_
  cases st with
  | records es => exact kept.of_grantsNone (State.sendChanged_grantsNone _ _ _ _)
  | define w d =>
    obtain ⟨i, hi, -, -, -, hp, -⟩ := fits
    exact kept.announce_of_layout p rfl hi (told.windows ▸ hp)
  | clear w =>
    obtain ⟨i, hi, -, -, -, hp⟩ := fits
    exact kept.announce_of_layout p rfl hi (told.windows ▸ hp)

/-! ## The verdicts, the resumption and the mount -/

theorem State.LeasesFollowPolicy.afterPass (h : s.LeasesFollowPolicy) (fit : s.StoreConsistent)
    (layout : s.job.LayoutConsistent s.windows) (g : PageNo) : (s.afterPass g).LeasesFollowPolicy := by
  unfold State.afterPass
  split
  · next p token st run job =>
    rw [job] at layout
    unfold State.commitPassed
    split
    · exact h.commitPoint (layout.of_images rfl)
    · exact h.of_grantsNone ((State.commitNext_grantsNone _ _ _ _).after rfl rfl rfl)
  · unfold State.relocationPassed
    split
    · exact h.of_grantsNone (s.relocationPoint_grantsNone _)
    · exact h.of_grantsNone ((State.relocationNext_grantsNone _ _).after rfl rfl rfl)
  · next job => exact h.of_unserved (.inr (fit.of_format job).2) (s.sweep_sweeps _ _ _).leases
  all_goals exact h

theorem State.LeasesFollowPolicy.afterFail (h : s.LeasesFollowPolicy) (fit : s.StoreConsistent) :
    s.afterFail.LeasesFollowPolicy := by
  unfold State.afterFail
  split
  · unfold State.commitFailed
    split
    · exact h.of_grantsNone ((State.commitNext_grantsNone _ _ _ _).after rfl rfl rfl)
    · exact h.of_grantsNone (s.commitMediaFailure_grantsNone _ _)
  · unfold State.relocationFailed
    split
    · exact h.of_grantsNone ((State.relocationNext_grantsNone _ _).after rfl rfl rfl)
    · exact h.of_grantsNone s.relocationMediaFailure_grantsNone
  · next job => exact h.of_unserved (.inr (fit.of_format job).2) (s.epochAttempt_attempts _ _ _).leases
  all_goals exact h

theorem State.LeasesFollowPolicy.afterErase (h : s.LeasesFollowPolicy) (fit : s.StoreConsistent) (g : PageNo)
    (v : EraseVerdict) : (s.afterErase g v).LeasesFollowPolicy := by
  have settled := s.leases_settleErase g v
  unfold State.afterErase
  split
  · refine h.of_grantsNone (.trans (t := s.settleErase g v) ?_ (State.endJob_grantsNone _))
    cases v <;> exact .of_same rfl rfl rfl
  · next job =>
    exact h.of_unserved (.inr (fit.of_format job).2) ((State.epochAttempt_attempts _ _ _ _).leases.trans settled)
  · next job => exact h.of_unserved (.inr (fit.of_format job).2) (s.leases_sweepVerdict g v _ _)
  · next job => exact h.of_unserved (.inr (fit.of_format job).2) ((State.leases_formatEnd _ _).trans settled)
  all_goals exact h

theorem State.LeasesFollowPolicy.resume (h : s.LeasesFollowPolicy) (fit : s.StoreConsistent) :
    s.resume.LeasesFollowPolicy := by
  unfold State.resume
  split
  · exact h
  · split
    · exact h
    · exact h
    · exact h.of_grantsNone (s.commitNext_grantsNone _ _ _)
    · exact h.of_grantsNone (s.relocationNext_grantsNone _)
    · rw [State.issueErase_changes]
      exact h.of_grantsNone (.of_same rfl rfl rfl)
    · next job => exact h.of_unserved (.inr (fit.of_format job).2) (s.leases_formatNext _ _)

/-! ## The commands -/

theorem State.LeasesFollowPolicy.serve {p : Port} {n : Nat} {body : State → State × ResultHolder}
    (hb : ∀ u : State, u.LeasesFollowPolicy → (body u).1.LeasesFollowPolicy) (hs : s.LeasesFollowPolicy)
    (h : serve p n body s = .next t) : t.LeasesFollowPolicy := by
  unfold Sys2Proof.Machine.serve at h
  split at h <;> obtain rfl := Host.Outcome.next.inj h
  · exact hs
  · exact (hb _ (hs.of_grantsNone (s.onPort_grantsNone p _))).of_grantsNone (State.onPort_grantsNone _ p _)

/-- A request that gives no window a holder. -/
theorem State.LeasesFollowPolicy.serve_grantsNone {p : Port} {n : Nat} {body : State → State × ResultHolder}
    (hs : s.LeasesFollowPolicy) (h : Machine.serve p n body s = .next t) (hb : ∀ u : State, u.GrantsNone (body u).1) :
    t.LeasesFollowPolicy := hs.serve (fun u hu => hu.of_grantsNone (hb u)) h

theorem State.LeasesFollowPolicy.link {p : Port} {f : State → PortState → PortState} (hs : s.LeasesFollowPolicy)
    (h : (.next (s.atLink p f) : Host.Outcome State Fault Refusal) = .next t) : t.LeasesFollowPolicy := by
  obtain rfl := Host.Outcome.next.inj h
  refine hs.of_grantsNone ?_
  rw [State.atLink_changes]
  split
  · exact .refl s
  · exact .of_same rfl rfl rfl

/-- Of the commands of the ports, LEASE alone gives a window a holder, and FORMAT alone closes the store. -/
theorem State.LeasesFollowPolicy.exec_port {c : Instr} (hs : s.LeasesFollowPolicy) (hc : (portOf c).isSome = true)
    (h : exec c s = .next t) : t.LeasesFollowPolicy := by
  cases c with
  | status p =>
    exact hs.serve_grantsNone (body := fun s => (s, .result .ok (s.statusPayload p))) h fun u => .refl u
  | read p r => exact hs.serve_grantsNone h fun u => readBody_grantsNone u r
  | scan p a b d => exact hs.serve_grantsNone h fun u => scanBody_grantsNone u a b d
  | windows p => exact hs.serve_grantsNone h windowsBody_grantsNone
  | beginTxn p => exact hs.serve_grantsNone h fun u => beginBody_grantsNone u p
  | stageWrite p r e v d => exact hs.serve_grantsNone h fun u => stageWriteBody_grantsNone u p r e v d
  | stageDelete p r e v => exact hs.serve_grantsNone h fun u => stageDeleteBody_grantsNone u p r e v
  | dropEntry p r => exact hs.serve_grantsNone h fun u => dropBody_grantsNone u p r
  | commit p => exact hs.serve_grantsNone h fun u => commitBody_grantsNone u p
  | abort p => exact hs.serve_grantsNone h fun u => abortBody_grantsNone u p
  | lease p w x => exact hs.serve (fun u hu => hu.leaseBody p w x) h
  | renew p w => exact hs.serve_grantsNone h fun u => renewBody_grantsNone u p w
  | release p w => exact hs.serve_grantsNone h fun u => releaseBody_grantsNone u p w
  | breakLease p w => exact hs.serve_grantsNone h fun u => breakBody_grantsNone u p w
  | watch p a => exact hs.serve_grantsNone h fun u => watchBody_grantsNone u p a
  | unwatch p a => exact hs.serve_grantsNone h fun u => unwatchBody_grantsNone u p a
  | defineWindow p w b z x y => exact hs.serve_grantsNone h fun u => defineBody_grantsNone u p w b z x y
  | clearWindow p w => exact hs.serve_grantsNone h fun u => clearBody_grantsNone u p w
  | format p => exact hs.serve (fun u hu => hu.formatBody p) h
  | portReset p => exact hs.serve_grantsNone h fun u => portResetBody_grantsNone u p
  | badFrame _ _ | truncated _ _ | frameTimeout _ _ | badLeadByte _ _ | resultFrame _ _ | scanBlockDelivered _ _
  | noticeFrame _ _ | noticeEntryDelivered _ _ => exact hs.link h
  | deviceReset _ | resetRelease _ _ _ | mountEnd | pfwAssert | holdTakesEffect | pfwDeassert | leaseTick
  | leaseExpiry _ | jobChoice _ | pageProgramVerdict _ | pageEraseVerdict _ | formatJobBegin _ => cases hc

/-- The release finds the leases of a part in device reset, which has none (R82, R83). -/
theorem State.LeasesFollowPolicy.exec_resetRelease {x y z : Bool} (hs : s.LeasesFollowPolicy) (fit : s.StoreConsistent)
    (h : exec (.resetRelease x y z) s = .next t) : t.LeasesFollowPolicy := by
  simp only [exec, execResetRelease] at h
  split at h <;> obtain rfl := Host.Outcome.next.inj h
  · next inReset => exact hs.of_unserved (.inl (fit.1 inReset).1) rfl
  · exact hs

theorem exec_keepsLeasePolicy {c : Instr} (fit : s.StoreConsistent) (layout : s.LayoutConsistent)
    (hs : s.LeasesFollowPolicy) (h : exec c s = .next t) : t.LeasesFollowPolicy := by
  obtain ⟨-, -, -, jobLayout⟩ := layout
  have same {u : State} (windows : u.windows = s.windows) (leases : u.leases = s.leases) (store : u.store = s.store) :
      u.LeasesFollowPolicy := hs.of_grantsNone (.of_same windows leases store)
  rcases leavesEngine_or c with (port | rfl | ⟨w, rfl⟩ | rfl | rfl) | ⟨x, y, z, rfl⟩ | ⟨cut, rfl⟩ | rfl | rfl | ⟨b, rfl⟩
    | ⟨v, rfl⟩ | ⟨v, rfl⟩ | ⟨b, rfl⟩
  · exact hs.exec_port port h
  · simp only [exec, execLeaseTick] at h
    split at h <;> obtain rfl := Host.Outcome.next.inj h
    · exact hs
    · exact hs.of_grantsNone s.tick_grantsNone
  · simp only [exec, execLeaseExpiry] at h
    split at h <;> obtain rfl := Host.Outcome.next.inj h
    · exact hs.of_grantsNone s.tick_grantsNone
    · exact hs
  · obtain rfl := Host.Outcome.next.inj h
    exact same rfl rfl rfl
  · obtain rfl := Host.Outcome.next.inj ((exec_holdTakesEffect_eq s).symm.trans h)
    split
    · exact same rfl rfl rfl
    · exact hs
  · exact hs.exec_resetRelease fit h
  · obtain ⟨-, free, -⟩ := exec_deviceReset_fields h
    exact .of_none fun w => by rw [free w]; rfl
  · rcases exec_mountEnd h with rfl | ⟨-, mounts, rfl⟩
    · exact hs
    · exact hs.of_unserved (.inl (fit.2.1 mounts)) s.leases_endMount
  · obtain rfl := exec_pfwDeassert h
    exact (same rfl rfl rfl : ({ s with pfw := false, hold := false } : State).LeasesFollowPolicy).resume
      (fit.of_same rfl rfl rfl)
  · have kept : ({ s with pfw := s.pfw || b } : State).LeasesFollowPolicy := same rfl rfl rfl
    rcases exec_jobChoice h with rfl | ⟨-, -, -, rfl⟩
    · exact kept
    · exact kept.of_grantsNone (State.takeUp_takesUp _ s.queue).grantsNone
  · rcases exec_pageProgramVerdict h with rfl | ⟨g, i, -, ⟨-, rfl⟩ | ⟨mark, -, rfl⟩⟩
    · exact hs
    · exact (same rfl rfl rfl : (s.programPassed g i).LeasesFollowPolicy).afterPass (fit.of_same rfl rfl rfl)
        jobLayout g
    · exact (same rfl rfl rfl : (s.programFailed g mark).LeasesFollowPolicy).afterFail (fit.of_same rfl rfl rfl)
  · rcases exec_pageEraseVerdict h with rfl | ⟨g, -, rfl⟩
    · exact hs
    · exact (same rfl rfl rfl : (s.eraseDone g v).LeasesFollowPolicy).afterErase (fit.of_same rfl rfl rfl) g v
  · rcases exec_formatJobBegin h with rfl | ⟨-, store, -, rfl⟩
    · exact same rfl rfl rfl
    · exact hs.of_unserved (.inr store) (State.leases_beginFormat _)

/-- Settles O56: a holder comes by LEASE, to a LEASED window, or from a holder before it; a layout commit point settles the
lease of the one window whose row it changes; and a store closes with its leases cleared or with none to clear. -/
theorem stepsKeepLeasePolicy : Obligations.StepsKeepLeasePolicy := by
  intro s t fit layout hs h
  rcases step_eq_exec h with rfl | ⟨c, rest, -, h⟩
  · exact hs
  · exact exec_keepsLeasePolicy (s := { s with pending := rest }) fit layout hs h

end Sys2Proof.Machine
end

section
/-!
SUPPORT. O16 to O19: the lease requests behind their common checks, and what each does to the window's lease.
-/

namespace Sys2Proof.Machine

/-! ## Window and wait arguments (R107, R171) -/

theorem windowArg_of_large {b : Byte} (large : 15 < b.toNat) : windowArg b = none := by
  unfold windowArg
  rw [dif_neg (by omega)]

theorem windowArg_byteOf (w : WindowNo) : windowArg (byteOf w.val) = some w := by
  have value : (byteOf w.val).toNat = w.val := by
    have := w.isLt
    simp only [byteOf, BitVec.toNat_ofNat]
    omega
  simp [windowArg, value]

theorem waitArg_eq (wait : Byte) :
    waitArg wait = if 1 < wait.toNat then none else some (decide (wait ≠ 0x00)) := by
  have zero : wait = 0x00 ↔ wait.toNat = 0 := by bv_omega
  have one : wait = 0x01 ↔ wait.toNat = 1 := by bv_omega
  unfold waitArg
  simp only [zero, one, ne_eq]
  by_cases h0 : wait.toNat = 0
  · rw [if_pos h0, if_neg (by omega), decide_eq_false (not_not.mpr h0)]
  · rw [if_neg h0]
    by_cases h1 : wait.toNat = 1
    · rw [if_pos h1, if_neg (by omega), decide_eq_true h0]
    · rw [if_neg h1, if_pos (by omega)]

/-! ## The common checks of the lease requests (R107 to R110) -/

section
variable {s : State} {p : Port} {n : Nat} {body : State → State × ResultHolder}
  {act : WindowNo → State → State × ResultHolder}

theorem leaseRequest_of_large {b : Byte} (large : 15 < b.toNat) (act : WindowNo → State → State × ResultHolder)
    (u : State) : leaseRequest b act u = (u, plain .badArg) := by
  rw [leaseRequest, windowArg_of_large large]

theorem serve_leaseRequest_of_large {b : Byte} (hr : s.inReset = false) (large : 15 < b.toNat) :
    serve p n (leaseRequest b act) s = .next (s.refused p n .badArg) :=
  serve_of_badArg hr (leaseRequest_of_large large act)

/-- A lease request to a window in range: what it does behind the gate (Table 35). -/
theorem serve_leaseRequest {w : WindowNo} {t : State} (hr : s.inReset = false)
    (hb : ∀ u, body u = leaseRequest (byteOf w.val) act u)
    (served : (act w (s.endFrame p n)).1.answer p (act w (s.endFrame p n)).2 = t) :
    serve p n body s = .next (s.ifServed p n t) :=
  serve_of_readGate hr (fun u => by rw [hb, leaseRequest, windowArg_byteOf] <;> rfl) served

end

/-! ## Leases and windows after the frame of a request -/

section
variable (s : State) (p : Port) (n : Nat) (w : WindowNo)

theorem State.lease_endFrame : (s.endFrame p n).lease w = s.lease w := rfl

theorem State.windows_endFrame : (s.endFrame p n).windows = s.windows := rfl

theorem State.leaseTime_endFrame : (s.endFrame p n).leaseTime w = s.leaseTime w := rfl

/-- A request's frame bears on no pending commit. -/
theorem State.pendingCommit_endFrame (q : Port) : (s.endFrame p n).pendingCommit q w = s.pendingCommit q w := by
  have staging : ((s.endFrame p n).port q).staging = (s.port q).staging := by
    rw [State.port_endFrame]
    split <;> rfl
  unfold State.pendingCommit
  rw [s.txn_endFrame, staging, s.windows_endFrame]

theorem State.service_endFrame : ((s.endFrame p n).port p).service = (s.port p).service := by
  rw [State.port_endFrame_self]
  rfl

theorem State.holds_eq : s.holds p w = decide ((s.lease w).held.map HeldLease.port = some p) := by
  unfold State.holds
  cases (s.lease w).held with
  | none => rfl
  | some h => simp [Bool.beq_eq_decide_eq]

/-- A notice, and then the window passes on (R106, R110, R114). -/
theorem State.passOn_notify (q : Port) (b : NoticeBody) :
    (s.notify q b).passOn w
      = (s.setLease w ((s.lease w).passedOn (s.leaseTime w))).sendAll ((q, b) :: (s.lease w).grants w) := by
  rw [State.passOn_eq]
  rfl

end

section
variable {s : State} {w : WindowNo}

theorem State.leaseTime_of_defined {d : WindowDef} (window : s.windows.get w = some d) :
    s.leaseTime w = d.policy.ticks := by
  rw [State.leaseTime, window]

theorem State.loadTimer_of_held {h : HeldLease} (held : (s.lease w).held = some h) :
    s.loadTimer w = s.setLease w ⟨some { h with timer := s.leaseTime w }, (s.lease w).waiters⟩ := by
  rw [State.loadTimer, held]

/-- A pending commit is QUEUED or RUNNING with a record entry that the window covers (R109). -/
theorem State.pendingCommit_iff (s : State) (p : Port) (w : WindowNo) :
    s.pendingCommit p w = true ↔
      ((s.port p).txn = .queued ∨ (s.port p).txn = .running)
        ∧ ∃ es d, (s.port p).staging = .records es ∧ s.windows.get w = some d
          ∧ ∃ e ∈ es, d.base ≤ e.record.val ∧ e.record.val < d.base + d.size := by
  have touches : (s.port p).staging.touches s.windows w = true
      ↔ ∃ es d, (s.port p).staging = .records es ∧ s.windows.get w = some d
        ∧ ∃ e ∈ es, d.base ≤ e.record.val ∧ e.record.val < d.base + d.size := by
    cases (s.port p).staging with
    | records es => simp [Staging.touches_records]
    | define _ _ => simp [Staging.touches]
    | clear _ => simp [Staging.touches]
  rw [← touches, State.pendingCommit]
  cases (s.port p).txn <;> simp

end

/-- LEASE on a LEASED window: a free window is granted; the holder's timer is loaded unless frozen; another port is refused,
keeps its place on the wait list or joins it (R107). -/
theorem State.grantBody_answer (s : State) (p : Port) (wait : Byte) {w : WindowNo} {ticks : Nat}
    (time : s.leaseTime w = ticks) :
    (grantBody p (decide (wait ≠ 0x00)) w ticks (s.endFrame p 4)).1.answer p
        (grantBody p (decide (wait ≠ 0x00)) w ticks (s.endFrame p 4)).2
      = let take := fun (l : LeaseState) (h : ResultHolder) => ((s.endFrame p 4).setLease w l).answer p h
        match (s.lease w).held with
        | none => take ⟨some ⟨p, ticks, false⟩, (s.lease w).waiters⟩ (.result .granted [byteOf ticks])
        | some h =>
          if h.port = p then
            if h.frozen then s.answered p 4 (.result .granted [byteOf ticks])
            else take ⟨some ⟨p, ticks, false⟩, (s.lease w).waiters⟩ (.result .granted [byteOf ticks])
          else if wait = 0x00 then s.refused p 4 .held
          else if p ∈ (s.lease w).waiters then
            s.answered p 4 (.result .waiting [byteOf ((s.lease w).waiters.idxOf p + 1)])
          else take ⟨some h, (s.lease w).waiters ++ [p]⟩
            (.result .waiting [byteOf ((s.lease w).waiters.length + 1)]) := by
  unfold grantBody
  rcases Option.eq_none_or_eq_some (s.lease w).held with free | ⟨⟨q, timer, frozen⟩, held⟩
  · simp only [State.lease_endFrame, free, State.leaseTime_endFrame, time]
  · by_cases mine : q = p
    · subst mine
      have loaded := (s.endFrame q 4).loadTimer_of_held held
      rw [s.leaseTime_endFrame, time] at loaded
      simp only [State.lease_endFrame, held, loaded, if_true]
      cases frozen <;> rfl
    · simp only [State.lease_endFrame, held, mine, if_false]
      by_cases still : wait = 0x00
      · simp only [still, ne_eq, not_true, decide_false, Bool.false_eq_true, if_false, if_true]
        rfl
      · by_cases waits : p ∈ (s.lease w).waiters
        · have same : (s.endFrame p 4).setLease w ⟨some ⟨q, timer, frozen⟩, (s.lease w).waiters⟩ = s.endFrame p 4 :=
            held ▸ (s.endFrame p 4).setLease_lease w
          simp only [still, ne_eq, not_false_iff, decide_true, if_true, if_false, joinWait, waits, placeOf, same]
          rfl
        · simp only [still, ne_eq, not_false_iff, decide_true, if_true, if_false, joinWait, waits, placeOf,
            List.idxOf_append_of_notMem waits, List.idxOf_cons_self, Nat.add_zero]

/-! ## The four obligations -/

/-- Settles O16: the checks of LEASE in the order of its body, then its answer by the holder and the wait list. -/
theorem leaseGrants : Obligations.LeaseGrants := by
  intro p wait s hr
  refine ⟨fun b large => serve_of_badArg hr fun u => ?_, fun w => ?_⟩
  · unfold leaseBody
    split
    · rfl
    · exact leaseRequest_of_large large _ u
  · by_cases undefinedChoice : 1 < wait.toNat
    · rw [if_pos undefinedChoice]
      refine serve_of_badArg hr fun u => ?_
      rw [leaseBody, waitArg_eq, if_pos undefinedChoice]
    · rw [if_neg undefinedChoice]
      refine serve_leaseRequest hr (fun u => by rw [leaseBody, waitArg_eq, if_neg undefinedChoice]) ?_
      rcases Option.eq_none_or_eq_some (s.windows.get w) with undefined | ⟨⟨base, size, policy⟩, window⟩
      · simp only [State.windows_endFrame, undefined]
        rfl
      · cases policy with
        | openWrite =>
          simp only [State.windows_endFrame, window]
          rfl
        | frozen =>
          simp only [State.windows_endFrame, window]
          rfl
        | leased ticks =>
          simp only [State.windows_endFrame, window, Option.map_some]
          exact s.grantBody_answer p wait (State.leaseTime_of_defined window)

/-- Settles O17: the checks of RENEW in the order of its body, then the load. -/
theorem renewLoads : Obligations.RenewLoads := by
  intro p s hr
  refine ⟨fun b large => serve_leaseRequest_of_large hr large, fun w => serve_leaseRequest hr (fun _ => rfl) ?_⟩
  rcases Option.eq_none_or_eq_some (s.windows.get w) with undefined | ⟨d, window⟩
  · simp only [State.windows_endFrame, undefined]
    rfl
  · rcases Option.eq_none_or_eq_some (s.lease w).held with free | ⟨⟨q, timer, frozen⟩, held⟩
    · simp only [State.windows_endFrame, State.lease_endFrame, window, free]
      rfl
    · by_cases mine : q = p
      · subst mine
        have loaded := (s.endFrame q 3).loadTimer_of_held held
        rw [s.leaseTime_endFrame, State.leaseTime_of_defined window] at loaded
        simp only [State.windows_endFrame, State.lease_endFrame, window, held, loaded, ne_eq, not_true, if_true,
          if_false]
        cases frozen <;> rfl
      · simp only [State.windows_endFrame, State.lease_endFrame, window, held, mine, ne_eq, not_false_iff, if_true,
          if_false]
        rfl

/-- Settles O18: a pending commit by its definition; then the checks of RELEASE in the order of its body, for the holder,
a waiter and any other port. -/
theorem releasePassesOn : Obligations.ReleasePassesOn := by
  refine ⟨fun p w s => s.pendingCommit_iff p w, fun p s hr =>
    ⟨fun b large => serve_leaseRequest_of_large hr large, fun w => serve_leaseRequest hr (fun _ => rfl) ?_⟩⟩
  have pending := s.pendingCommit_endFrame p 3 w p
  have holds : (s.endFrame p 3).holds p w = s.holds p w := rfl
  rcases Option.eq_none_or_eq_some (s.windows.get w) with undefined | ⟨d, window⟩
  · simp only [State.windows_endFrame, undefined]
    rfl
  · by_cases holder : (s.lease w).held.map HeldLease.port = some p
    · have passed := (s.endFrame p 3).passOn_eq w
      rw [s.leaseTime_endFrame, State.leaseTime_of_defined window] at passed
      have isHeld : (s.endFrame p 3).holds p w = true := (s.holds_eq p w).trans (decide_eq_true holder)
      simp only [State.windows_endFrame, window, isHeld, holder, pending, passed, if_true]
      by_cases busy : s.pendingCommit p w = true
      · simp only [busy, if_true]
        rfl
      · simp only [busy]
        rfl
    · have notHeld : (s.endFrame p 3).holds p w = false := (s.holds_eq p w).trans (decide_eq_false holder)
      simp only [State.windows_endFrame, State.lease_endFrame, window, notHeld, holder, if_false, filter_bne]
      by_cases waits : p ∈ (s.lease w).waiters
      · simp only [waits, if_true]
        rfl
      · simp only [waits, if_false]
        rfl

/-- Settles O19: the checks of BREAK in the order of its body; the LEASE_REVOKED goes before the passing on. -/
theorem breakRevokes : Obligations.BreakRevokes := by
  intro p s hr
  refine ⟨fun b large => serve_leaseRequest_of_large hr large, fun w => serve_leaseRequest hr (fun _ => rfl) ?_⟩
  have service := s.service_endFrame p 3
  by_cases clear : (s.port p).service = false
  · simp only [service, clear, if_true]
    rfl
  · rcases Option.eq_none_or_eq_some (s.windows.get w) with undefined | ⟨d, window⟩
    · simp only [State.windows_endFrame, service, clear, undefined]
      rfl
    · rcases Option.eq_none_or_eq_some (s.lease w).held with free | ⟨h, held⟩
      · simp only [State.windows_endFrame, State.lease_endFrame, service, clear, window, free]
        rfl
      · have passed := (s.endFrame p 3).passOn_notify w h.port (.leaseRevoked w)
        rw [s.leaseTime_endFrame, State.leaseTime_of_defined window] at passed
        have pending := s.pendingCommit_endFrame p 3 w h.port
        simp only [State.windows_endFrame, State.lease_endFrame, service, clear, window, held, pending, passed]
        by_cases busy : s.pendingCommit h.port w = true
        · simp only [busy, if_true]
          rfl
        · simp only [busy]
          rfl

end Sys2Proof.Machine
end

section
/-! SUPPORT. O20: a tick as it takes each window, and as one event (R105, R114, R128). -/

namespace Sys2Proof.Machine

/-! ## One window at a tick -/

/-- The notices of an expiry: LEASE_EXPIRED to the holder, and the LEASE_GRANTED of the passing on (R114). -/
def State.expiryNotices (s : State) (w : WindowNo) : List (Port × NoticeBody) :=
  match (s.lease w).held with
  | some h => (h.port, .leaseExpired w) :: (s.lease w).grants w
  | none => []

/-- The lease state of a window after a tick: passed on if its timer comes to 0, else lowered unless frozen (R105). -/
def State.tickedLease (s : State) (w : WindowNo) : LeaseState :=
  if s.expiryDue w then (s.lease w).passedOn (s.leaseTime w)
  else match (s.lease w).held with
    | some h => if h.frozen then s.lease w else ⟨some ⟨h.port, h.timer - 1, false⟩, (s.lease w).waiters⟩
    | none => s.lease w

theorem State.tickWindow_eq (s : State) (w : WindowNo) :
    s.tickWindow w
      = (s.setLease w (s.tickedLease w)).sendAll (if s.expiryDue w then s.expiryNotices w else []) := by
  have still (same : s.tickWindow w = s) (due : s.expiryDue w = false) (lease : s.tickedLease w = s.lease w) :
      s.tickWindow w
        = (s.setLease w (s.tickedLease w)).sendAll (if s.expiryDue w then s.expiryNotices w else []) := by
    rw [same, due, lease, s.setLease_lease]
    rfl
  rcases Option.eq_none_or_eq_some (s.lease w).held with free | ⟨⟨p, timer, frozen⟩, held⟩
  · exact still (by simp [State.tickWindow, free]) (by simp [State.expiryDue, free])
      (by simp [State.tickedLease, State.expiryDue, free])
  · cases frozen with
    | true =>
      exact still (by simp [State.tickWindow, held]) (by simp [State.expiryDue, held])
        (by simp [State.tickedLease, State.expiryDue, held])
    | false =>
      by_cases last : timer ≤ 1
      · simp [State.tickWindow, State.expire, State.tickedLease, State.expiryDue, State.expiryNotices, held, last,
          State.passOn_notify]
      · simp [State.tickWindow, State.tickedLease, State.expiryDue, held, last]
        rfl

/-! ## The windows in turn -/

theorem State.sendAll_setLease (s : State) (w : WindowNo) (l : LeaseState) (notices : List (Port × NoticeBody)) :
    (s.setLease w l).sendAll notices = (s.sendAll notices).setLease w l := by
  induction notices generalizing s with
  | nil => rfl
  | cons x rest ih => exact ih (s.notify x.1 x.2)

section
variable {s t : State} {w : WindowNo}

theorem State.expiryDue_congr (lease : t.lease w = s.lease w) : t.expiryDue w = s.expiryDue w := by
  rw [State.expiryDue, lease, State.expiryDue]

theorem State.expiryNotices_congr (lease : t.lease w = s.lease w) : t.expiryNotices w = s.expiryNotices w := by
  rw [State.expiryNotices, lease, State.expiryNotices]

theorem State.tickedLease_congr (lease : t.lease w = s.lease w) (time : t.leaseTime w = s.leaseTime w) :
    t.tickedLease w = s.tickedLease w := by
  rw [State.tickedLease, State.expiryDue_congr lease, lease, time, State.tickedLease]

end

theorem State.lease_tickWindow (s : State) (v w : WindowNo) :
    (s.tickWindow w).lease v = if v = w then s.tickedLease w else s.lease v := by
  rw [State.tickWindow_eq, State.lease_sendAll, State.lease_setLease]

theorem State.leaseTime_tickWindow (s : State) (v w : WindowNo) : (s.tickWindow w).leaseTime v = s.leaseTime v := by
  obtain ⟨_, _, ticked⟩ := s.tickWindow_changes w
  rw [ticked]
  rfl

/-- The windows of a list take the tick in turn, none of which bears on another: their notices in the order of the list, and
each lease state as its own window's tick leaves it. -/
theorem State.tickEach_eq (s : State) {l : List WindowNo} (nodup : l.Nodup) :
    l.foldl State.tickWindow s
      = { s.sendAll ((l.filter s.expiryDue).flatMap s.expiryNotices) with
          leases := Table.build 16 fun v => if v ∈ l then s.tickedLease v else s.lease v } := by
  induction l generalizing s with
  | nil =>
    have leases : (Table.build 16 fun v => if v ∈ ([] : List WindowNo) then s.tickedLease v else s.lease v) = s.leases :=
      Table.ext_get fun v => by
        rw [Table.get_build, if_neg List.not_mem_nil]
        rfl
    rw [leases]
    rfl
  | cons w rest ih =>
    obtain ⟨notIn, nodup⟩ := List.nodup_cons.mp nodup
    have lease {v : WindowNo} (other : v ≠ w) : (s.tickWindow w).lease v = s.lease v := by
      rw [State.lease_tickWindow, if_neg other]
    have apart {v : WindowNo} (hv : v ∈ rest) : v ≠ w := ne_of_mem_of_not_mem hv notIn
    have due : rest.filter (s.tickWindow w).expiryDue = rest.filter s.expiryDue :=
      List.filter_congr fun v hv => State.expiryDue_congr (lease (apart hv))
    have notices : (rest.filter (s.tickWindow w).expiryDue).flatMap (s.tickWindow w).expiryNotices
        = (rest.filter s.expiryDue).flatMap s.expiryNotices := by
      rw [due]
      exact List.flatMap_congr fun v hv => State.expiryNotices_congr (lease (apart (List.mem_of_mem_filter hv)))
    have leases : (Table.build 16 fun v =>
          if v ∈ rest then (s.tickWindow w).tickedLease v else (s.tickWindow w).lease v)
        = Table.build 16 fun v => if v ∈ w :: rest then s.tickedLease v else s.lease v :=
      Table.ext_get fun v => by
        rw [Table.get_build, Table.get_build]
        by_cases same : v = w
        · subst same
          rw [if_neg notIn, if_pos List.mem_cons_self, State.lease_tickWindow, if_pos rfl]
        · rw [State.tickedLease_congr (lease same) (s.leaseTime_tickWindow v w), lease same]
          simp only [List.mem_cons, same, false_or]
    have first : ((w :: rest).filter s.expiryDue).flatMap s.expiryNotices
        = (if s.expiryDue w then s.expiryNotices w else []) ++ (rest.filter s.expiryDue).flatMap s.expiryNotices := by
      rw [List.filter_cons]
      split <;> rfl
    rw [List.foldl_cons, ih (s.tickWindow w) nodup, notices, leases, first, State.tickWindow_eq, State.sendAll_append,
      State.sendAll_setLease, State.sendAll_setLease]
    rfl

/-- A tick is one event (R105, R128). -/
theorem State.tick_eq (s : State) :
    s.tick = { s.sendAll ((allWindows.filter s.expiryDue).flatMap s.expiryNotices) with
      leases := Table.build 16 s.tickedLease } := by
  have all : (Table.build 16 fun v => if v ∈ allWindows then s.tickedLease v else s.lease v)
      = Table.build 16 s.tickedLease :=
    congrArg (Table.build 16) (funext fun v => if_pos (mem_allWindows v))
  rw [State.tick, s.tickEach_eq nodup_allWindows, all]

/-- Settles O20: a tick as one event, under either of its names. -/
theorem tickLowersTimers : Obligations.TickLowersTimers := by
  intro s hr
  refine ⟨?_, fun w => ?_⟩
  · simp only [exec, execLeaseTick, hr, Bool.false_eq_true, if_false, s.tick_eq]
    rfl
  · have event : exec (.leaseExpiry w) s = .next (if s.expiryDue w then s.tick else s) := by
      simp only [exec, execLeaseExpiry, hr, true_and]
      split <;> rfl
    rw [event, s.tick_eq]
    rfl

end Sys2Proof.Machine
end

section
/-! SUPPORT. O22 and O23: the arguments of DEFINE_WINDOW, and the submission of a layout commit. -/

namespace Sys2Proof.Machine

/-! ## The arguments of DEFINE_WINDOW (R101, R118) -/

theorem policyArg_eq (policy ticks : Byte) :
    policyArg policy ticks
      = if 2 < policy.toNat ∨ ¬(policy = 0x01 ↔ ticks ≠ 0x00) then none
        else some (if policy = 0x00 then .openWrite else if policy = 0x01 then .leased ticks.toNat else .frozen) := by
  unfold policyArg
  by_cases h0 : policy = 0x00
  · subst h0
    by_cases untimed : ticks = 0x00 <;> simp [untimed]
  · by_cases h1 : policy = 0x01
    · subst h1
      by_cases untimed : ticks = 0x00 <;> simp [untimed]
    · by_cases h2 : policy = 0x02
      · subst h2
        by_cases untimed : ticks = 0x00 <;> simp [untimed]
      · have undefined : 2 < policy.toNat := by bv_omega
        rw [if_neg h0, if_neg h1, if_neg h2, if_pos (Or.inl undefined)]

/-- The lease time of a LEASED policy argument is in range by itself (R101, R171). -/
theorem WindowDef.inRange_of_policyArg {policy ticks : Byte} {c : Policy} (h : policyArg policy ticks = some c)
    (base size : Nat) :
    (WindowDef.mk base size c).inRange = true
      ↔ base < 128 ∧ size ∈ windowSizes ∧ base % size = 0 ∧ base + size ≤ 128 := by
  have timed (t : Nat) (leased : c = .leased t) : 1 ≤ t ∧ t ≤ 255 := by
    rw [policyArg_eq] at h
    split at h
    · cases h
    · next good =>
      obtain ⟨-, fits⟩ := not_or.mp good
      subst leased
      have h := Option.some.inj h
      split at h
      · cases h
      · split at h
        · next isLeased =>
          cases h
          have some := (not_not.mp fits).mp isLeased
          have := ticks.isLt
          exact ⟨by bv_omega, by omega⟩
        · cases h
  unfold WindowDef.inRange
  cases c with
  | openWrite | frozen => simp [and_assoc]
  | leased t => simp [and_assoc, timed t rfl]

/-- The definition that arguments in range give. -/
def definitionOf (base size policy ticks : Byte) : WindowDef :=
  ⟨base.toNat, size.toNat,
    if policy = 0x00 then .openWrite else if policy = 0x01 then .leased ticks.toNat else .frozen⟩

theorem definitionOf_policy {base size policy ticks : Byte} (defined : ¬2 < policy.toNat) :
    (definitionOf base size policy ticks).policy = .frozen ↔ policy = 0x02 := by
  unfold definitionOf
  by_cases h0 : policy = 0x00
  · simp [h0]
  · by_cases h1 : policy = 0x01
    · simp [h1]
    · have h2 : policy = 0x02 := by bv_omega
      simp [h2]

theorem definitionArg_eq (base size policy ticks : Byte) :
    definitionArg base size policy ticks
      = if 127 < base.toNat ∨ size.toNat ∉ [1, 2, 4, 8, 16, 32, 64, 128] ∨ base.toNat % size.toNat ≠ 0
          ∨ 128 < base.toNat + size.toNat ∨ 2 < policy.toNat ∨ ¬(policy = 0x01 ↔ ticks ≠ 0x00) then none
        else some (definitionOf base size policy ticks) := by
  unfold definitionArg
  have arg := policyArg_eq policy ticks
  by_cases badPolicy : 2 < policy.toNat ∨ ¬(policy = 0x01 ↔ ticks ≠ 0x00)
  · rw [if_pos badPolicy] at arg
    rw [arg, if_pos (.inr (.inr (.inr (.inr badPolicy))))]
  · rw [if_neg badPolicy] at arg
    rw [arg]
    have range := WindowDef.inRange_of_policyArg arg base.toNat size.toNat
    simp only [range, windowSizes]
    refine (if_congr ?_ rfl rfl).trans (ite_not _ _ _)
    rw [not_or, not_or, not_or, not_or, not_lt, not_lt, not_not, not_not]
    refine ⟨fun ⟨low, power, aligned, ends⟩ => ⟨Nat.le_of_lt_succ low, power, aligned, ends, badPolicy⟩,
      fun ⟨low, power, aligned, ends, _⟩ => ⟨Nat.lt_succ_of_le low, power, aligned, ends⟩⟩

/-! ## The submission (R118, R119) -/

/-- A layout commit submitted behind the frame of its request: the transaction, the queue and the answer. -/
theorem State.submit_endFrame (s : State) (p : Port) (n : Nat) (st : Staging) :
    ((s.endFrame p n).submit p st).1.answer p ((s.endFrame p n).submit p st).2
      = let token := (s.port p).tokenCounter + 1
        let t := (s.endFrame p n).onPort p fun c => { c with txn := .queued, staging := st, tokenCounter := token }
        State.answer { t with queue := s.queue ++ [⟨p, token, st⟩] } p
          (.result .queued [token, byteOf (s.queue.length + 1)]) := by
  have token : ((s.endFrame p n).port p).tokenCounter = (s.port p).tokenCounter := by
    rw [State.port_endFrame_self]
    rfl
  unfold State.submit
  simp only [token]
  rfl

/-- What DEFINE_WINDOW does with good arguments in a READY store (R118). -/
def defineBehindGate (p : Port) (w : WindowNo) (d : WindowDef) (u : State) : State × ResultHolder :=
  if (u.port p).txn ≠ .none then (u, plain .state)
  else if d.policy = .frozen ∧ (u.port p).service = false then (u, plain .notService)
  else u.submit p (.define w d)

/-- What CLEAR_WINDOW does with a good argument in a READY store (R119). -/
def clearBehindGate (p : Port) (w : WindowNo) (u : State) : State × ResultHolder :=
  if (u.port p).txn ≠ .none then (u, plain .state)
  else if (u.windows.get w).isNone then (u, plain .noWindow)
  else u.submit p (.clear w)

/-- Settles O22: the checks of DEFINE_WINDOW in the order of its body, then the submission. -/
theorem defineWindowQueues : Obligations.DefineWindowQueues := by
  intro p base size policy ticks s hr
  refine ⟨fun b large => serve_of_badArg hr fun u => ?_, fun w => ?_⟩
  · unfold defineBody
    rw [windowArg_of_large large]
  · split
    · next bad =>
      refine serve_of_badArg hr fun u => ?_
      unfold defineBody
      rw [windowArg_byteOf, definitionArg_eq, if_pos bad]
    · next good =>
      have defined : ¬2 < policy.toNat := fun undefined => good (.inr (.inr (.inr (.inr (.inl undefined)))))
      refine serve_of_writeGate (good := defineBehindGate p w (definitionOf base size policy ticks)) hr (fun u => ?_)
        fun _ => ?_
      · unfold defineBody
        rw [windowArg_byteOf, definitionArg_eq, if_neg good]
        rfl
      · simp only [defineBehindGate, State.txn_endFrame, State.service_endFrame, definitionOf_policy defined]
        by_cases free : (s.port p).txn = .none
        · by_cases refused : policy = 0x02 ∧ (s.port p).service = false
          · simp only [free, refused, ne_eq, not_true, if_true, if_false, and_self]
            rfl
          · simp only [free, refused, ne_eq, not_true, if_false]
            exact s.submit_endFrame p 7 (.define w (definitionOf base size policy ticks))
        · simp only [free, ne_eq, not_false_iff, if_true]
          rfl

/-- Settles O23: the checks of CLEAR_WINDOW in the order of its body, then the submission. -/
theorem clearWindowQueues : Obligations.ClearWindowQueues := by
  intro p s hr
  refine ⟨fun b large => serve_of_badArg hr fun u => ?_, fun w => ?_⟩
  · unfold clearBody
    rw [windowArg_of_large large]
  · refine serve_of_writeGate (good := clearBehindGate p w) hr (fun u => ?_) fun _ => ?_
    · unfold clearBody
      rw [windowArg_byteOf]
      rfl
    · simp only [clearBehindGate, State.txn_endFrame, State.windows_endFrame]
      by_cases free : (s.port p).txn = .none
      · rcases Option.eq_none_or_eq_some (s.windows.get w) with undefined | ⟨d, window⟩
        · simp only [free, undefined, ne_eq, not_true, if_false, if_true]
          rfl
        · simp only [free, window, ne_eq, not_true, if_false]
          exact s.submit_endFrame p 3 (.clear w)
      · simp only [free, ne_eq, not_false_iff, if_true]
        rfl

end Sys2Proof.Machine
end

section
/-! SUPPORT. O10: the payload of WINDOWS. -/

namespace Sys2Proof.Machine

/-- Version and sequence of the layout record as WINDOWS sends them (R124, Table 41). -/
theorem State.layoutBytes_eq (s : State) :
    be16 (s.record Config.layoutRecord).version ++ be32 s.layoutSequence
      = match s.record Config.layoutRecord with
        | .unwritten => [0x00, 0x00, 0xFF, 0xFF, 0xFF, 0xFF]
        | .present v _ _ q => be16 v ++ be32 q
        | .deleted v _ q => be16 v ++ be32 q := by
  unfold State.layoutSequence
  cases s.record Config.layoutRecord <;> rfl

/-- A window's definition as WINDOWS sends it, policy by policy (R124, Table 41). -/
theorem windowBytes_eq (w : WindowNo) (d : WindowDef) :
    windowBytes w d = [byteOf w.val, byteOf d.base, byteOf d.size]
      ++ match d.policy with
        | .openWrite => [0x00, 0x00]
        | .leased ticks => [0x01, byteOf ticks]
        | .frozen => [0x02, 0x00] := by
  obtain ⟨base, size, policy⟩ := d
  cases policy <;> rfl

/-- The rows that are defined, in order, each with what it gives. -/
theorem flatMap_defined {α β : Type} (row : WindowNo → Option α) (bytes : WindowNo → α → List β) (l : List WindowNo) :
    (l.flatMap fun w => ((row w).map (bytes w)).getD [])
      = (l.filterMap fun w => (row w).map fun d => (w, d)).flatMap fun x => bytes x.1 x.2 := by
  induction l with
  | nil => rfl
  | cons w rest ih =>
    rw [List.flatMap_cons, List.filterMap_cons, ih]
    cases row w <;> rfl

/-- Settles O10: the gate of the store state, then the payload part by part. -/
theorem windowsReports : Obligations.WindowsReports := by
  intro p s hr
  refine serve_of_readGate hr (fun _ => rfl) ?_
  change (s.endFrame p 2).answer p (.result .ok s.windowsPayload) = _
  rw [State.windowsPayload, s.layoutBytes_eq, flatMap_defined]
  simp only [windowBytes_eq]
  rfl

end Sys2Proof.Machine
end
